-- ==== Sys2Proof/Word.lean ====
section
/-! DEFINITION. The words of the block: one name for each width the spec gives (00_scope R5, R6; 10_state R20-R31). -/

namespace Sys2Proof

/-- A host command, one 32-bit word (30_encoding R70). -/
abbrev CmdWord := BitVec 32

/-- A width in microseconds, `DUR_W` = 20 bits (R6). -/
abbrev Dur := BitVec 20

/-- A millisecond timestamp, `TIME_W` = 30 bits (R6). -/
abbrev TimeMs := BitVec 30

/-- A counter, `COUNT_W` = 32 bits (R5). -/
abbrev Count := BitVec 32

/-- A bucket index as stored in a nibble pair (30_encoding R78, R79). -/
abbrev Nibble := BitVec 4

/-- A nibble pair, or a decoded byte. -/
abbrev Byte := BitVec 8

/-- A number of half-bits or an offset into the capture buffer, 10 bits (10_state R26, R32). -/
abbrev Len10 := BitVec 10

end Sys2Proof
end

