-- ==== Sys2Proof/Config.lean ====
section
/-! DEFINITION. What the integrator fixes before the rules hold (00_scope R5, R6; 70_reset_and_hazards R242).
The parameters are constants of the step, never state (10_state R20). The values of the decided ones stand in
Machine/Tuning.lean; here are their shape, their constraints, and the free values behind the four OPEN ones. -/

namespace Sys2Proof

/-- `MAX_BUCKETS` (R5): the bucket table has this many entries. -/
abbrev Config.maxBuckets : Nat := 8

/-- `SENTINEL` (R5, R79): the overflow index. -/
abbrev Config.sentinel : Nibble := 15

/-- `FOOTER_MAX` (R5, R73): a width at or below this is a footer marker. -/
abbrev Config.footerMax : Nat := 1

/-- The two readings of the near-candidate test (41_bucket_table_classifier R92; 90_conflicts C7). -/
inductive NearRule where
  | span
  | edge
  deriving DecidableEq, Repr

/-- The tunable parameters of R5 and R6 that are no fixed width. -/
structure Params where
  /-- `CAP`: half-bits the capture buffer holds. -/
  cap : Nat
  /-- `TOL_TABLE` as a total function on widths (R90). -/
  tol : Dur → Dur
  /-- `NEAR_RULE` (R92). -/
  nearRule : NearRule
  /-- `MIN_HALFBITS` (R182). -/
  minHalfbits : Nat
  /-- `NOISE_MSG_LEN` (R144). -/
  noiseMsgLen : Nat
  /-- `NOISE_MIN_REPEATS` (R144). -/
  noiseMinRepeats : Nat
  /-- `MAX_SPANS` (R142). -/
  maxSpans : Nat
  /-- `MOD_RATIO` (R161, R162). -/
  modRatio : Nat
  /-- `COLLAPSE_DIV` (R138). -/
  collapseDiv : Nat
  /-- `DEBOUNCE_FLOOR` (R184), OPEN. -/
  debounceFloor : Nat
  /-- `TIMEOUT_CEILING` (R184), OPEN. -/
  timeoutCeiling : Nat
  /-- `SESSION_TIMEOUT_MS` (R186), OPEN. -/
  sessionTimeoutMs : Nat
  /-- `MSG_LEN_MARGIN` (R142), OPEN. -/
  msgLenMargin : Nat

/-- The constraints of R6 and R242. -/
structure Params.Valid (p : Params) : Prop where
  floor_from_footer : Config.footerMax ≤ p.debounceFloor
  floor_below_ceiling : p.debounceFloor < p.timeoutCeiling
  ceiling_fits : p.timeoutCeiling ≤ 2 ^ 20 - 2
  timeout_fits : p.sessionTimeoutMs < 2 ^ 30 - 1
  guard_fits : p.minHalfbits ≤ p.cap
  cap_fits : p.cap ≤ 1023

/-- Free value behind `DEBOUNCE_FLOOR` (R6 OPEN, 92_eei_decisions D5); DESIGN CHOICE, log entry 4. -/
opaque Config.freeFloor : Nat

/-- Free value behind `TIMEOUT_CEILING` (R6 OPEN, D6); log entry 4. -/
opaque Config.freeCeiling : Nat

/-- Free value behind `SESSION_TIMEOUT_MS` (R6 OPEN, D7); log entry 4. -/
opaque Config.freeTimeout : Nat

/-- Free value of `MSG_LEN_MARGIN` (R6 OPEN, D19); log entry 4. -/
opaque Config.freeMargin : Nat

end Sys2Proof
end

