-- ==== Sys2Proof/Machine/State.lean ====
section
/-! DEFINITION. The state of the block (10_state R20-R31, R39), the report it emits (45_capture_buffer_controller
R190, 30_encoding R80), and the reasons a step can stop. Plain data throughout. -/

namespace Sys2Proof.Machine

/-- The session controller's state (R21). The fourth two-bit value is unreachable in the spec and no value here
(log entry 6). -/
inductive Fsm where
  | idle
  | capturing
  | finalizing
  deriving DecidableEq, Repr

/-- Why the last session ended (R30). -/
inductive EndReason where
  | footer
  | ceiling
  | bufferFull
  | watchdog
  deriving DecidableEq, Repr

/-- The two axes of a half-bit (00_scope R12). -/
inductive Axis where
  | pulse
  | space
  deriving DecidableEq, Repr

/-- One bucket entry (R23). -/
structure Bucket where
  min : Dur
  max : Dur
  pcnt : Count
  scnt : Count
  ccnt : Count
  deriving DecidableEq, Repr

/-- A cleared entry (R39, R40). -/
def Bucket.zero : Bucket := ⟨0, 0, 0, 0, 0⟩

/-- The bucket table: the count of real buckets (R22) and the eight entries (R23). -/
structure BucketTable where
  n : BitVec 4
  entries : Vector Bucket Config.maxBuckets
  deriving DecidableEq, Repr

/-- The table with no bucket (R39, R40). -/
def BucketTable.empty : BucketTable := ⟨0, Vector.replicate Config.maxBuckets Bucket.zero⟩

/-- The capture buffer's bytes (R26) as cells in canonical form: addresses strictly rising, no cell equal to what
an unlisted address reads as (`Memory.wf`). -/
abbrev Memory := List Host.Cell

/-- `status` of a report (30_encoding R80). -/
inductive ReportStatus where
  | ok
  | noiseShort
  | noiseNoRepeat
  | abandoned
  deriving DecidableEq, Repr

/-- `modulation` of a report (R80, 44_modulation_classifier R163). -/
inductive Modulation where
  | unknown
  | pwm
  | pdm
  | manchester
  deriving DecidableEq, Repr

/-- The selection of one axis (10_state R32, 43_gap_detector_freq_stats R138). -/
structure AxisThresholds where
  short : Nibble
  long : Nibble
  countGapMax : Count
  mergedCount : BitVec 33
  singleLevel : Bool
  deriving DecidableEq, Repr

/-- A message span (43_gap_detector_freq_stats R141): first and last half-bit, and the number of data half-bits. -/
structure Span where
  start : Len10
  stop : Len10
  length : Len10
  deriving DecidableEq, Repr

/-- One item of the decoded stream (30_encoding R80, 44_modulation_classifier R167, R168). -/
inductive StreamItem where
  | byte (value : Byte) (nbits : BitVec 4)
  | mark (offset : Len10) (p s : Nibble) (pTime sTime : Dur)
  deriving DecidableEq, Repr

/-- The report's fields that are present for OK and NOISE_NOREPEAT (R190). -/
structure Analysis where
  n : BitVec 4
  buckets : List Bucket
  buffer : List Byte
  pulse : AxisThresholds
  space : AxisThresholds
  bestLen : Len10
  repeats : Len10
  nspans : Len10
  spans : List Span
  deriving DecidableEq, Repr

/-- The report's fields that are present for OK alone (R190). -/
structure Decoding where
  pwm : Bool
  pdm : Bool
  modulation : Modulation
  markMid : Dur
  spaceMid : Dur
  stream : List StreamItem
  deriving DecidableEq, Repr

/-- The record of a REPORT event; fields absent for a status are `none` (R190). -/
structure Report where
  status : ReportStatus
  endReason : EndReason
  halfbits : Len10
  startMs : TimeMs
  lastEdgeMs : TimeMs
  analysis : Option Analysis
  decoding : Option Decoding
  deriving DecidableEq, Repr

/-- What the outside lines up for the block, in the total order of 20_memory R58: a host command, or the
scheduler's grant of one step to the finalize engine (00_scope R7; log entry 1). -/
inductive Turn where
  | command (word : CmdWord)
  | finalize
  deriving DecidableEq, Repr

/-- The state: R20's tuple, and last the model's own two lists at its interface (log entries 1 and 3). -/
structure State where
  fsm : Fsm
  table : BucketTable
  buf : Memory
  len : Len10
  pendValid : Bool
  pendW : Dur
  timeMs : TimeMs
  startMs : TimeMs
  lastEdgeMs : TimeMs
  endReason : EndReason
  cmdErr : Bool
  dropCount : Count
  agenda : List Turn
  reports : List Report
  deriving DecidableEq, Repr

/-- The reset values of R39; nothing is lined up and nothing has been reported (log entries 1 and 3). -/
def State.reset : State where
  fsm := .idle
  table := BucketTable.empty
  buf := []
  len := 0
  pendValid := false
  pendW := 0
  timeMs := 0
  startMs := 0
  lastEdgeMs := 0
  endReason := .footer
  cmdErr := false
  dropCount := 0
  agenda := []
  reports := []

/-- The block defines no fault and no stuck state (00_scope R8, 60_exceptions R220): there is no reason to name. -/
inductive Fault where
  deriving DecidableEq, Repr

/-- Reasons a step gives no meaning. Every one is safe: the model stops, and only in states that no run from a
state meeting the invariant of Safety.lean reaches. -/
inductive Refusal where
  /-- Raised by an arm of `exec` for a command without a meaning; no arm is such a one. Safe. -/
  | notModelled (mnemonic : String)
  /-- Raised by the buffer write of an append or a remap whose index is `CAP` or more: 20_memory R51 lets a model
  refuse such a call, and no rule makes one (93_implementation_defined I16). Safe. -/
  | writeBeyondCapacity (index : Nat)
  /-- Raised by FIN on a table with no bucket: 43_gap_detector_freq_stats R136 requires `n ≥ 1`. Safe. -/
  | noBucketToRank
  deriving DecidableEq, Repr

end Sys2Proof.Machine
end

