-- ==== Sys2Proof/Machine/Operands.lean ====
section
/-! DEFINITION. How the rules read their operands: the two fields of a nibble pair (30_encoding R78), the real
buckets of the table (10_state R23), a bucket's axis count (00_scope R12) and its midpoint
(44_modulation_classifier R160). -/

namespace Sys2Proof.Machine

/-- `pack(p, s) = (p << 4) | s` (R78). -/
def pack (p s : Nibble) : Byte := (p.setWidth 8 <<< 4) ||| s.setWidth 8

/-- `hi(np)`: the pulse index (R78). -/
def hi (np : Byte) : Nibble := np.extractLsb' 4 4

/-- `lo(np)`: the space index (R78). -/
def lo (np : Byte) : Nibble := np.extractLsb' 0 4

/-- The real buckets `B[0..n−1]` (R23), at most the eight there are. -/
def BucketTable.live (t : BucketTable) : List Bucket := t.entries.toList.take t.n.toNat

/-- `B[i]`; an index of the bucket space that names no entry (20_memory R50) reads as a cleared one. -/
def BucketTable.entry (t : BucketTable) (i : Nat) : Bucket := t.entries.toList.getD i Bucket.zero

/-- `B[i] <- f B[i]`; nothing is written at an index that names no entry. -/
def BucketTable.modify (t : BucketTable) (i : Nat) (f : Bucket → Bucket) : BucketTable :=
  { t with entries := t.entries.setIfInBounds i (f (t.entry i)) }

/-- `cnt(i, a)` (R12). -/
def Bucket.count (b : Bucket) : Axis → Count
  | .pulse => b.pcnt
  | .space => b.scnt

/-- `mid(i)`: the sum in `DUR_W + 1` bits, halved, rounding down (R160). -/
def Bucket.mid (b : Bucket) : Dur := BitVec.ofNat 20 ((b.min.toNat + b.max.toNat) / 2)

/-- `i < n ? mid(i) : 0`: the midpoint an index names, 0 where it names no real bucket (R160, R168). -/
def midAt (live : List Bucket) (i : Nibble) : Dur :=
  match live[i.toNat]? with
  | some b => b.mid
  | none => 0

/-- `(a + b) >> 1` of two midpoints: a decision threshold (R164). -/
def halfway (a b : Dur) : Dur := BitVec.ofNat 20 ((a.toNat + b.toNat) / 2)

end Sys2Proof.Machine
end

