-- ==== Sys2Proof/Machine/Ops.lean ====
section
/-! DEFINITION. The named operations over the capture buffer (20_memory R51) and the session's registers, which every
meaning goes through. The block raises no exception and has no trap to enter or return from (60_exceptions R220,
R230, R231), so there is no such operation here. -/

namespace Sys2Proof.Machine

/-- What a byte of the buffer that nothing has written reads as: its reset value (10_state R39). -/
def Memory.unlisted : Byte := 0x00

/-- `buf[k]`. -/
def Memory.read : Memory → Nat → Byte
  | [], _ => Memory.unlisted
  | (a, b) :: rest, k => if a = k then b else Memory.read rest k

/-- `buf[k] <- v`, keeping the canonical form. -/
def Memory.write : Memory → Nat → Byte → Memory
  | [], k, v => if v = Memory.unlisted then [] else [(k, v)]
  | (a, b) :: rest, k, v =>
    if k < a then
      if v = Memory.unlisted then (a, b) :: rest else (k, v) :: (a, b) :: rest
    else if k = a then
      if v = Memory.unlisted then rest else (k, v) :: rest
    else (a, b) :: Memory.write rest k v

/-- The canonical form: addresses strictly rising, no cell that says what an unlisted address says. -/
def Memory.wf : Memory → Bool
  | [] => true
  | (a, b) :: rest => decide (b ≠ Memory.unlisted) && rest.all (fun c => decide (a < c.1)) && Memory.wf rest

/-- `MemRead(k, 1)` (R51): requires `k < len`. -/
def State.memRead? (s : State) (k : Nat) : Option Byte :=
  if k < s.len.toNat then some (Memory.read s.buf k) else none

/-- `MemRead(0, 1) .. MemRead(len − 1, 1)`: the stored half-bits in arrival order (10_state R26). -/
def State.stored (s : State) : List Byte := (List.range s.len.toNat).filterMap s.memRead?

/-- `MemWrite(k, 1, v)` (R51): requires `k < CAP`; a call that does not meet it is refused (log entry 7). -/
def memWrite (p : Params) (k : Nat) (v : Byte) (s : State) : Except Refusal State :=
  if k < p.cap then .ok { s with buf := Memory.write s.buf k v } else .error (.writeBeyondCapacity k)

/-- SessionClear (10_state R40). -/
def State.sessionClear (s : State) : State :=
  { s with table := BucketTable.empty, buf := [], len := 0, pendValid := false, pendW := 0 }

/-- `emit REPORT(r)` (00_scope R11). -/
def State.emit (s : State) (r : Report) : State := { s with reports := s.reports ++ [r] }

/-- A report with the fields that every status has (45_capture_buffer_controller R190). -/
def State.briefReport (s : State) (status : ReportStatus) : Report where
  status := status
  endReason := s.endReason
  halfbits := s.len
  startMs := s.startMs
  lastEdgeMs := s.lastEdgeMs
  analysis := none
  decoding := none

/-- `emit REPORT(r); SessionClear(); fsm <- IDLE`: how every report leaves the block (R182, R186, R189). -/
def State.reportAndIdle (s : State) (r : Report) : State := { (s.emit r).sessionClear with fsm := .idle }

/-- The outcome of a computation that may be refused; the block has no fault (60_exceptions R220). -/
def answer : Except Refusal State → Host.Outcome State Fault Refusal
  | .ok s => .next s
  | .error r => .refused r

end Sys2Proof.Machine
end

