-- ==== Sys2Proof/Machine/Classifier.lean ====
section
/-! DEFINITION. The bucket table with its tolerance match, and the nibble pair packer
(41_bucket_table_classifier). -/

namespace Sys2Proof.Machine

/-- Containment (R91). -/
def Bucket.contains (w : Dur) (b : Bucket) : Bool := decide (b.min ≤ w) && decide (w ≤ b.max)

/-- The distance at which a bucket is a near candidate for a width outside its range, within a tolerance (R92). -/
def nearDistance (rule : NearRule) (tol w : Nat) (b : Bucket) : Option Nat :=
  let min := b.min.toNat
  let max := b.max.toNat
  if w < min then
    let reach := match rule with
      | .span => max - w
      | .edge => min - w
    if reach ≤ tol then some (min - w) else none
  else if max < w then
    let reach := match rule with
      | .span => w - min
      | .edge => w - max
    if reach ≤ tol then some (w - max) else none
  else none

/-- The better of the best candidate so far and the bucket at index `i`: a later one replaces it only on a strictly
smaller distance (R93). -/
def closer (best : Option (Nat × Nat)) (i : Nat) (distance : Option Nat) : Option (Nat × Nat) :=
  match best, distance with
  | best, none => best
  | none, some d => some (i, d)
  | some (j, e), some d => if d < e then some (i, d) else some (j, e)

/-- The scan of R93 from index `i` on: the index and the distance of the nearest candidate. -/
def nearestFrom (distance : Bucket → Option Nat) : Nat → Option (Nat × Nat) → List Bucket → Option (Nat × Nat)
  | _, best, [] => best
  | i, best, b :: rest => nearestFrom distance (i + 1) (closer best i (distance b)) rest

/-- Nearest selection among the real buckets (R90, R92, R93). -/
def nearest (p : Params) (w : Dur) (live : List Bucket) : Option (Nat × Nat) :=
  nearestFrom (nearDistance p.nearRule (p.tol w).toNat w.toNat) 0 none live

/-- Widening (R94). -/
def Bucket.widen (w : Dur) (b : Bucket) : Bucket :=
  if w < b.min then { b with min := w } else { b with max := w }

/-- Counter update on a hit (R98). -/
def Bucket.countHit (b : Bucket) : Axis → Bucket
  | .pulse => { b with pcnt := b.pcnt + 1, ccnt := b.ccnt + 1 }
  | .space => { b with scnt := b.scnt + 1, ccnt := b.ccnt + 1 }

/-- A new bucket at one width, counted once on its axis (R95). -/
def Bucket.single (w : Dur) : Axis → Bucket
  | .pulse => ⟨w, w, 1, 0, 1⟩
  | .space => ⟨w, w, 0, 1, 1⟩

/-- Allocation of a bucket at index `n` (R95). -/
def BucketTable.allocate (t : BucketTable) (b : Bucket) : BucketTable :=
  { n := t.n + 1, entries := t.entries.setIfInBounds t.n.toNat b }

/-- ClassifyWidth (R97): the index given to a width, and the table after. -/
def classifyWidth (p : Params) (w : Dur) (axis : Axis) (t : BucketTable) : Nibble × BucketTable :=
  if w = 0 then (Config.sentinel, t)
  else
    match t.live.findIdx? (Bucket.contains w) with
    | some i => (BitVec.ofNat 4 i, t.modify i fun b => b.countHit axis)
    | none =>
      match nearest p w t.live with
      | some (j, _) => (BitVec.ofNat 4 j, t.modify j fun b => (b.widen w).countHit axis)
      | none =>
        if t.n.toNat < Config.maxBuckets then (t.n, t.allocate (Bucket.single w axis))
        else (Config.sentinel, t)

/-- ClassifyPair (R99): the pulse first, so the space sees its bucket. -/
def classifyPair (p : Params) (pulse space : Dur) (t : BucketTable) : Byte × BucketTable :=
  let first := classifyWidth p pulse .pulse t
  let second := classifyWidth p space .space first.2
  (pack first.1 second.1, second.2)

end Sys2Proof.Machine
end

