-- ==== Sys2Proof/Machine/Flags.lean ====
section
/-! DEFINITION. The block's flags and counters (10_state R31, R36), the codes its registers and reports show
(10_state R21, R30; 30_encoding R80), the STATUS outputs (10_state R37), and the conditions of 60_exceptions R220. -/

namespace Sys2Proof.Machine

/-- `sat_32(v + 1)` (00_scope R10). -/
def satIncrement (v : Count) : Count := if v.toNat + 1 < 2 ^ 32 then v + 1 else BitVec.allOnes 32

/-- `drop_count <- sat_32(drop_count + 1)`: an EDGE or FOOTER dropped while FINALIZING (R31). -/
def State.countDrop (s : State) : State := { s with dropCount := satIncrement s.dropCount }

/-- `cmd_err <- 1` (R31). -/
def State.setCmdErr (s : State) : State := { s with cmdErr := true }

/-- The two bits of `fsm` (R21). -/
def Fsm.code : Fsm → BitVec 2
  | .idle => 0
  | .capturing => 1
  | .finalizing => 2

/-- The two bits of `end_reason` (R30). -/
def EndReason.code : EndReason → BitVec 2
  | .footer => 0
  | .ceiling => 1
  | .bufferFull => 2
  | .watchdog => 3

/-- The two bits of a report's `status` (R80). -/
def ReportStatus.code : ReportStatus → BitVec 2
  | .ok => 0
  | .noiseShort => 1
  | .noiseNoRepeat => 2
  | .abandoned => 3

/-- The two bits of a report's `modulation` (R80). -/
def Modulation.code : Modulation → BitVec 2
  | .unknown => 0
  | .pwm => 1
  | .pdm => 2
  | .manchester => 3

/-- `modulation <- pwm + 2 * pdm` (44_modulation_classifier R163). -/
def modulationOf (pwm pdm : Bool) : Modulation :=
  match pwm, pdm with
  | false, false => .unknown
  | true, false => .pwm
  | false, true => .pdm
  | true, true => .manchester

/-- `pwm` or `pdm` of an axis: its long midpoint exceeds `MOD_RATIO` times its short one (R161, R162). -/
def modulationFlag (p : Params) (live : List Bucket) (axis : AxisThresholds) : Bool :=
  decide (p.modRatio * (midAt live axis.short).toNat < (midAt live axis.long).toNat)

/-- The status outputs, readable at any time (R37). -/
structure StatusOutputs where
  fsm : BitVec 2
  cmdErr : Bool
  len : Len10
  n : BitVec 4
  dropCount : Count
  timeMs : TimeMs
  deriving DecidableEq, Repr

/-- `STATUS` in a state (R37). -/
def State.status (s : State) : StatusOutputs where
  fsm := s.fsm.code
  cmdErr := s.cmdErr
  len := s.len
  n := s.table.n
  dropCount := s.dropCount
  timeMs := s.timeMs

/-- The conditions of 60_exceptions R220; the block stores no cause register. -/
inductive Condition where
  | bucketOverflow
  | bufferFull
  | axisAmbiguous
  | noiseShort
  | noiseNoRepeat
  | invalidWidth
  | reservedCommand
  | watchdog
  deriving DecidableEq, Repr

/-- The codes of R220's table. -/
def Condition.code : Condition → Nat
  | .bucketOverflow => 1
  | .bufferFull => 2
  | .axisAmbiguous => 3
  | .noiseShort => 4
  | .noiseNoRepeat => 5
  | .invalidWidth => 6
  | .reservedCommand => 7
  | .watchdog => 8

/-- Whether a report with an analysis satisfies `f` on it. -/
def Report.analysed (r : Report) (f : Analysis → Bool) : Bool :=
  match r.analysis with
  | some a => f a
  | none => false

/-- The recorded value by which a condition shows, in a state and a report (R220's last column). The two causes of
a sentinel nibble are recorded alike. -/
def Condition.recorded (s : State) (r : Report) : Condition → Bool
  | .bucketOverflow | .invalidWidth =>
    r.analysed fun a => a.buffer.any fun np => hi np == Config.sentinel || lo np == Config.sentinel
  | .bufferFull => r.endReason == .bufferFull
  | .axisAmbiguous => r.analysed fun a => a.pulse.singleLevel || a.space.singleLevel
  | .noiseShort => r.status == .noiseShort
  | .noiseNoRepeat => r.status == .noiseNoRepeat
  | .reservedCommand => s.cmdErr
  | .watchdog => r.status == .abandoned

end Sys2Proof.Machine
end

