-- ==== Sys2Proof/Machine/Tuning.lean ====
section
/-! DEFINITION. The values of the parameters (00_scope R5, R6): the source's or the spec's own default where there is
one, a free value within the constraints of R6 and R242 where the parameter is OPEN (log entries 4 and 5). -/

namespace Sys2Proof.Machine

/-- `TOL_TABLE`: the reference bands (R90). The smallest band is looser than the next (90_conflicts C1). -/
def tolTable (w : Dur) : Dur :=
  if w.toNat < 500 then 400
  else if w.toNat < 1000 then 200
  else if w.toNat < 2000 then 400
  else if w.toNat < 5000 then 600
  else 1000

/-- `TIMEOUT_CEILING`: any value from `FOOTER_MAX + 1` to `2^20 − 2`. -/
def timeoutCeiling : Nat := 2 + Config.freeCeiling % (2 ^ 20 - 3)

/-- `DEBOUNCE_FLOOR`: any value from `FOOTER_MAX` up to below the ceiling. -/
def debounceFloor : Nat := 1 + Config.freeFloor % (timeoutCeiling - 1)

/-- `SESSION_TIMEOUT_MS`: any value below `2^30 − 1`. -/
def sessionTimeoutMs : Nat := Config.freeTimeout % (2 ^ 30 - 1)

/-- The parameters of this block. -/
def configured : Params where
  cap := 512
  tol := tolTable
  nearRule := .span
  minHalfbits := 64
  noiseMsgLen := 64
  noiseMinRepeats := 2
  maxSpans := 8
  modRatio := 2
  collapseDiv := 8
  debounceFloor := debounceFloor
  timeoutCeiling := timeoutCeiling
  sessionTimeoutMs := sessionTimeoutMs
  msgLenMargin := Config.freeMargin

end Sys2Proof.Machine
end

