-- ==== Sys2Proof/Machine/Session.lean ====
section
/-! DEFINITION. The capture buffer controller's procedures (45_capture_buffer_controller R181-R183) and, for any
parameters, what each command does in each state (R184-R188). -/

namespace Sys2Proof.Machine

/-- SessionStart (R181): the starting edge is edge 0, the pending pulse. -/
def sessionStart (w : Dur) (s : State) : State :=
  { s.sessionClear with
    startMs := s.timeMs
    lastEdgeMs := s.timeMs
    pendW := w
    pendValid := true
    fsm := .capturing }

/-- AppendPair (R183). -/
def appendPair (p : Params) (pulse space : Dur) (s : State) : Except Refusal State :=
  let pair := classifyPair p pulse space s.table
  match memWrite p s.len.toNat pair.1 { s with table := pair.2 } with
  | .error r => .error r
  | .ok t => .ok { t with len := t.len + 1 }

/-- The half-bit of the pending pulse and a space width, after which no pulse is pending (R182, R184). -/
def appendPending (p : Params) (space : Dur) (s : State) : Except Refusal State :=
  match appendPair p s.pendW space s with
  | .error r => .error r
  | .ok t => .ok { t with pendValid := false }

/-- The short-burst guard, and FINALIZING for a session that passes it (R182). -/
def guardShort (p : Params) (s : State) : State :=
  if s.len.toNat < p.minHalfbits then s.reportAndIdle (s.briefReport .noiseShort) else { s with fsm := .finalizing }

/-- EndSession (R182): a pending pulse is flushed with space width 0. -/
def endSession (p : Params) (reason : EndReason) (s : State) : Except Refusal State :=
  if s.pendValid then
    match appendPending p 0 { s with endReason := reason } with
    | .error r => .error r
    | .ok t => .ok (guardShort p t)
  else .ok (guardShort p { s with endReason := reason })

/-- EDGE in IDLE: only a pulse strictly inside the band starts a session (R184). -/
def edgeIdle (p : Params) (level : Bool) (w : Dur) (s : State) : State :=
  if level = true ∧ p.debounceFloor < w.toNat ∧ w.toNat < p.timeoutCeiling then sessionStart w s else s

/-- An odd edge, a space: append, and end the session when that fills the buffer (R184 (b)). -/
def edgeSpace (p : Params) (w : Dur) (s : State) : Except Refusal State :=
  match appendPending p w s with
  | .error r => .error r
  | .ok t => if t.len.toNat = p.cap then endSession p .bufferFull t else .ok t

/-- EDGE in CAPTURING, with `last_edge_ms` already written (R184). -/
def edgeCapturing (p : Params) (w : Dur) (s : State) : Except Refusal State :=
  if p.timeoutCeiling < w.toNat then endSession p .ceiling s
  else if s.pendValid then edgeSpace p w s
  else .ok { s with pendW := w, pendValid := true }

/-- EDGE (R184). -/
def edge (p : Params) (level : Bool) (w : Dur) (s : State) : Host.Outcome State Fault Refusal :=
  match s.fsm with
  | .idle => .next (edgeIdle p level w s)
  | .capturing => answer (edgeCapturing p w { s with lastEdgeMs := s.timeMs })
  | .finalizing => .next s.countDrop

/-- FOOTER (R185). -/
def footer (p : Params) (s : State) : Host.Outcome State Fault Refusal :=
  match s.fsm with
  | .idle => .next s
  | .capturing => answer (endSession p .footer { s with lastEdgeMs := s.timeMs })
  | .finalizing => .next s.countDrop

/-- The watchdog compare of R186: the gap is the wrap-around difference of two 30-bit timestamps. -/
def watchdogFires (p : Params) (s : State) : Bool :=
  decide (s.fsm = .capturing) && decide (p.sessionTimeoutMs < (s.timeMs - s.lastEdgeMs).toNat)

/-- Abandonment by the watchdog: no flush, no analysis (R186). -/
def abandon (s : State) : State :=
  let t := { s with endReason := .watchdog }
  t.reportAndIdle (t.briefReport .abandoned)

/-- TICK (R186). -/
def tick (p : Params) (now : TimeMs) (s : State) : State :=
  let t := { s with timeMs := now }
  if watchdogFires p t then abandon t else t

/-- RESET (R187): every state element of the block; what stands at its interface is the outside's (log entry 3). -/
def resetBlock (s : State) : State := { State.reset with agenda := s.agenda, reports := s.reports }

end Sys2Proof.Machine
end

