-- ==== Sys2Proof/Machine/Commands.lean ====
section
/-! DEFINITION. The meaning of each host command (45_capture_buffer_controller R184-R188) for the parameters of this
block. L is read only by EDGE in IDLE; Q and QUAL are never read (30_encoding R72). -/

namespace Sys2Proof.Machine

/-- FOOTER (R185): no operand is used. -/
def execFooter (_level _hasQual : Bool) (_qual : BitVec 8) (_lowBit : Bool) (s : State) :
    Host.Outcome State Fault Refusal :=
  footer configured s

/-- EDGE (R184). -/
def execEdge (level _hasQual : Bool) (_qual : BitVec 8) (width : Dur) (s : State) :
    Host.Outcome State Fault Refusal :=
  edge configured level width s

/-- TICK (R186). -/
def execTick (now : TimeMs) (s : State) : Host.Outcome State Fault Refusal := .next (tick configured now s)

/-- RESET (R187). -/
def execReset (s : State) : Host.Outcome State Fault Refusal := .next (resetBlock s)

/-- A format-R word with a nonzero payload (R188). -/
def execReservedR (_payload : BitVec 30) (s : State) : Host.Outcome State Fault Refusal := .next s.setCmdErr

/-- A word with CMD = 11 (R188). -/
def execReserved (_payload : BitVec 30) (s : State) : Host.Outcome State Fault Refusal := .next s.setCmdErr

end Sys2Proof.Machine
end

