-- ==== Sys2Proof/Syntax.lean ====
section
/-! DEFINITION. The host commands: one constructor for each row of spec/opcode_table.json, with every bit of the
word that the row leaves open as a field (30_encoding R71-R77), ignored bits too, so that no word is forgotten. -/

namespace Sys2Proof

inductive Instr where
  /-- Format E with `W ≤ FOOTER_MAX` (R73): `level`, `hasQual`, `qual` and the low bit of `W`, all ignored (R185). -/
  | footer (level hasQual : Bool) (qual : BitVec 8) (lowBit : Bool)
  /-- Format E with any other `W` (R72, R73). -/
  | edge (level hasQual : Bool) (qual : BitVec 8) (width : Dur)
  /-- Format T (R74). -/
  | tick (now : TimeMs)
  /-- Exactly the word 0x80000000 (R75). -/
  | reset
  /-- Format R with a nonzero payload: reserved (R77). -/
  | reservedR (payload : BitVec 30)
  /-- CMD = 11: reserved (R77). -/
  | reserved (payload : BitVec 30)
  deriving DecidableEq, Repr

end Sys2Proof
end

