-- ==== Sys2Proof/Machine/Dispatch.lean ====
section
/-! DEFINITION. One arm for each host command, each one call of its meaning. -/

namespace Sys2Proof.Machine

def exec (i : Instr) (s : State) : Host.Outcome State Fault Refusal :=
  match i with
  | .footer level hasQual qual lowBit => Sys2Proof.Machine.execFooter level hasQual qual lowBit s
  | .edge level hasQual qual width => Sys2Proof.Machine.execEdge level hasQual qual width s
  | .tick now => Sys2Proof.Machine.execTick now s
  | .reset => Sys2Proof.Machine.execReset s
  | .reservedR payload => Sys2Proof.Machine.execReservedR payload s
  | .reserved payload => Sys2Proof.Machine.execReserved payload s

end Sys2Proof.Machine
end

