-- ==== Sys2Proof/WellFormed.lean ====
section
/-! DEFINITION. Which commands some word stands for (30_encoding R73, R77). -/

namespace Sys2Proof

/-- An EDGE is no footer marker (R73), and a format-R word with payload 0 is RESET, not reserved (R75). -/
def Instr.wellFormed : Instr → Bool
  | .footer _ _ _ _ => true
  | .edge _ _ _ width => decide (Config.footerMax < width.toNat)
  | .tick _ => true
  | .reset => true
  | .reservedR payload => decide (payload ≠ 0)
  | .reserved _ => true

end Sys2Proof
end

