-- ==== Sys2Proof/Decode.lean ====
section
/-! DEFINITION. The decoder of command words (30_encoding R70-R77, R81) and, after it, the encoder. Decoding is total:
a word that selects no command decodes to one of the two reserved constructors, by name (R77). -/

namespace Sys2Proof

/-- `CMD = word[31:30]` (R70). -/
def cmdField (word : CmdWord) : BitVec 2 := word.extractLsb' 30 2

/-- `word[29:0]`: NOW of format T (R74), the payload of format R and of reserved words (R75, R77). -/
def lowField (word : CmdWord) : BitVec 30 := word.extractLsb' 0 30

/-- `W = word[19:0]` (R72), zero-extended to `DUR_W` bits (R76). -/
def widthField (word : CmdWord) : Dur := word.extractLsb' 0 20

/-- `QUAL = word[27:20]` (R72). -/
def qualField (word : CmdWord) : BitVec 8 := word.extractLsb' 20 8

/-- Format E: FOOTER is tested before EDGE (R73, R81). -/
def decodeE (word : CmdWord) : Instr :=
  if word.extractLsb' 1 19 = 0 then
    .footer (word.getLsbD 29) (word.getLsbD 28) (qualField word) (word.getLsbD 0)
  else
    .edge (word.getLsbD 29) (word.getLsbD 28) (qualField word) (widthField word)

/-- Format R: only payload 0 is RESET (R75). -/
def decodeR (word : CmdWord) : Instr :=
  if lowField word = 0 then .reset else .reservedR (lowField word)

/-- The decoder of R81. -/
def decode (word : CmdWord) : Instr :=
  if cmdField word = 0 then decodeE word
  else if cmdField word = 1 then .tick (lowField word)
  else if cmdField word = 2 then decodeR word
  else .reserved (lowField word)

/-- A 30-bit field under a CMD field (R71, R74, R75). -/
def encodeLow (cmd : BitVec 2) (low : BitVec 30) : CmdWord := (cmd.setWidth 32 <<< 30) ||| low.setWidth 32

/-- Format E from its fields: CMD = 00, L, Q, QUAL, W (R72). -/
def encodeE (level hasQual : Bool) (qual : BitVec 8) (width : Dur) : CmdWord :=
  ((BitVec.ofBool level).setWidth 32 <<< 29) ||| ((BitVec.ofBool hasQual).setWidth 32 <<< 28) |||
    (qual.setWidth 32 <<< 20) ||| width.setWidth 32

/-- The word of a command (R71-R77). -/
def encode : Instr → CmdWord
  | .footer level hasQual qual lowBit => encodeE level hasQual qual ((BitVec.ofBool lowBit).setWidth 20)
  | .edge level hasQual qual width => encodeE level hasQual qual width
  | .tick now => encodeLow 1 now
  | .reset => 0x80000000
  | .reservedR payload => encodeLow 2 payload
  | .reserved payload => encodeLow 3 payload

/-- The command the decoder reads from a word given by its low `nbits` bits, every bit above them 0. A word has
32 bits (R70), so nothing longer is one. -/
def decodeTableWord (nbits w : Nat) : Option Instr :=
  if nbits ≤ 32 then some (decode (BitVec.ofNat 32 (w % 2 ^ nbits))) else none

end Sys2Proof
end

