-- ==== Sys2Proof/Machine/Segmenter.lean ====
section
/-! DEFINITION. The gap detector with frequency statistics (43_gap_detector_freq_stats). Every value here lives inside
one FIN step (10_state R32); the counts are taken exactly and narrowed to the widths of R32 at the end. -/

namespace Sys2Proof.Machine

/-- The axis counts `c_a[0..n−1]` (R135). -/
def axisCounts (live : List Bucket) (a : Axis) : List Nat := live.map fun b => (b.count a).toNat

/-- The first of the pairs (count, index) with the highest count: ties go to the lower index (R136). -/
def topRank : List (Nat × Nat) → Option (Nat × Nat)
  | [] => none
  | x :: rest =>
    match topRank rest with
    | none => some x
    | some y => if x.1 < y.1 then some y else some x

/-- The pairs (count, index) but those at an index. -/
def besides (i : Nat) (ranked : List (Nat × Nat)) : List (Nat × Nat) := ranked.filter fun x => x.2 != i

/-- `count_gap_max`: the highest count of the given pairs, 0 when there are none (R137). -/
def countGapMax (ranked : List (Nat × Nat)) : Nat := ranked.foldl (fun m x => max m x.1) 0

/-- An axis that collapses onto its highest count `a`, with the second-highest count merged in (R138). -/
def collapsedAxis (a : Nat × Nat) (second gap : Nat) : AxisThresholds where
  short := BitVec.ofNat 4 a.2
  long := BitVec.ofNat 4 a.2
  countGapMax := BitVec.ofNat 32 gap
  mergedCount := BitVec.ofNat 33 (a.1 + second)
  singleLevel := true

/-- An axis with two data levels, ordered by index, hence by width (R138, 90_conflicts C2). -/
def separateAxis (counts : List Nat) (a b : Nat × Nat) (gap : Nat) : AxisThresholds where
  short := BitVec.ofNat 4 (min a.2 b.2)
  long := BitVec.ofNat 4 (max a.2 b.2)
  countGapMax := BitVec.ofNat 32 gap
  mergedCount := BitVec.ofNat 33 (counts.getD (max a.2 b.2) 0)
  singleLevel := false

/-- SelectAxis (R138) on the counts of an axis; none where there is no bucket to rank (R136). -/
def selectAxis (p : Params) (counts : List Nat) : Option AxisThresholds :=
  match topRank counts.zipIdx with
  | none => none
  | some a =>
    let others := besides a.2 counts.zipIdx
    match topRank others with
    | none => some (collapsedAxis a 0 0)
    | some b =>
      let gap := countGapMax (besides b.2 others)
      if b.1 = 0 ∨ b.1 ≤ gap ∨ p.collapseDiv * b.1 < a.1 then some (collapsedAxis a b.1 gap)
      else some (separateAxis counts a b gap)

/-- `brk(k)` of a nibble pair, given the two long thresholds (R140). -/
def isBreak (longPulse longSpace : Nibble) (np : Byte) : Bool :=
  decide (longPulse < hi np) || decide (longSpace < lo np)

/-- The registers of the boundary scan (R141). -/
structure Scan where
  run : Nat
  bestLen : Nat
  repeats : Nat
  spans : List Span
  deriving DecidableEq, Repr

/-- The scan's registers at its start (R141). -/
def Scan.start : Scan := ⟨0, 0, 0, []⟩

/-- A span's record, in 10-bit fields (10_state R32). -/
def spanOf (start stop length : Nat) : Span := ⟨BitVec.ofNat 10 start, BitVec.ofNat 10 stop, BitVec.ofNat 10 length⟩

/-- CloseSpan (R142). -/
def closeSpan (p : Params) (start stop length : Nat) (c : Scan) : Scan :=
  if length = 0 then c
  else if c.repeats = 0 ∨ c.bestLen + p.msgLenMargin < length then
    { c with bestLen := length, repeats := 1, spans := [spanOf start stop length] }
  else if c.bestLen ≤ length + p.msgLenMargin then
    { c with
      repeats := c.repeats + 1
      spans := if c.spans.length < p.maxSpans then c.spans ++ [spanOf start stop length] else c.spans }
  else c

/-- One half-bit of the scan, the one at index `k` (R141). -/
def scanHalfbit (p : Params) (brk : Byte → Bool) (c : Scan) (np : Byte) (k : Nat) : Scan :=
  if brk np then { closeSpan p (k - c.run) k c.run c with run := 0 } else { c with run := c.run + 1 }

/-- The scan from index `k` to the end of the buffer, where an open run is closed (R141, R143). -/
def scanFrom (p : Params) (brk : Byte → Bool) : Nat → Scan → List Byte → Scan
  | k, c, [] => if 0 < c.run then closeSpan p (k - c.run) (k - 1) c.run c else c
  | k, c, np :: rest => scanFrom p brk (k + 1) (scanHalfbit p brk c np k) rest

/-- Segment (R145): the scan over the stored half-bits. -/
def segment (p : Params) (longPulse longSpace : Nibble) (bytes : List Byte) : Scan :=
  scanFrom p (isBreak longPulse longSpace) 0 Scan.start bytes

/-- The noise rule (R144). -/
def Scan.isNoise (p : Params) (c : Scan) : Bool :=
  decide (c.bestLen ≤ p.noiseMsgLen) && decide (c.repeats < p.noiseMinRepeats)

end Sys2Proof.Machine
end

