-- ==== Sys2Proof/Machine/Demodulator.lean ====
section
/-! DEFINITION. The modulation classifier and decoder (44_modulation_classifier). -/

namespace Sys2Proof.Machine

/-- The result of Classify (R163). -/
structure Classification where
  pwm : Bool
  pdm : Bool
  modulation : Modulation
  markMid : Dur
  spaceMid : Dur
  deriving DecidableEq, Repr

/-- Classify (R163), with the thresholds of R164. -/
def classify (p : Params) (live : List Bucket) (pulse space : AxisThresholds) : Classification :=
  let pwm := modulationFlag p live pulse
  let pdm := modulationFlag p live space
  { pwm := pwm
    pdm := pdm
    modulation := modulationOf pwm pdm
    markMid := halfway (midAt live pulse.short) (midAt live pulse.long)
    spaceMid := halfway (midAt live space.short) (midAt live space.long) }

/-- The bit packer and the stream it has emitted (R167). -/
structure Packer where
  acc : Byte
  nb : Nat
  stream : List StreamItem
  deriving DecidableEq, Repr

/-- The packer at the start of Decode (R167). -/
def Packer.start : Packer := ⟨0, 0, []⟩

/-- PushBit (R167): first bit highest. -/
def Packer.push (k : Packer) (b : Bool) : Packer :=
  let acc := (k.acc <<< 1) ||| BitVec.setWidth 8 (BitVec.ofBool b)
  if k.nb + 1 = 8 then { acc := 0, nb := 0, stream := k.stream ++ [.byte acc 8] }
  else { k with acc := acc, nb := k.nb + 1 }

/-- Flush (R167): a partial byte stays right-aligned. -/
def Packer.flush (k : Packer) : Packer :=
  if 0 < k.nb then { acc := 0, nb := 0, stream := k.stream ++ [.byte k.acc (BitVec.ofNat 4 k.nb)] } else k

/-- Push a bit where its axis is decoded (R165). -/
def Packer.pushIf (k : Packer) (decoded b : Bool) : Packer := if decoded then k.push b else k

/-- The MARK item of a break half-bit at offset `k` (R168). -/
def markOf (live : List Bucket) (k : Nat) (np : Byte) : StreamItem :=
  .mark (BitVec.ofNat 10 k) (hi np) (lo np) (midAt live (hi np)) (midAt live (lo np))

/-- One half-bit of Decode: a MARK for a break (R168), else the pulse bit and then the space bit of the decoded
axes (R165, R166). -/
def decodeHalfbit (live : List Bucket) (c : Classification) (brk : Byte → Bool) (k : Packer) (np : Byte) (at_ : Nat) :
    Packer :=
  if brk np then
    let flushed := k.flush
    { flushed with stream := flushed.stream ++ [markOf live at_ np] }
  else
    (k.pushIf c.pwm (decide (c.markMid < midAt live (hi np)))).pushIf c.pdm
      (decide (c.spaceMid < midAt live (lo np)))

/-- Decode's loop from index `k` to the end of the buffer, and the last flush (R169, R170). -/
def decodeFrom (live : List Bucket) (c : Classification) (brk : Byte → Bool) : Nat → Packer → List Byte → Packer
  | _, k, [] => k.flush
  | i, k, np :: rest => decodeFrom live c brk (i + 1) (decodeHalfbit live c brk k np i) rest

/-- Decode (R170); an UNKNOWN modulation gives no stream (R171). -/
def decodeStream (live : List Bucket) (c : Classification) (longPulse longSpace : Nibble) (bytes : List Byte) :
    List StreamItem :=
  if c.modulation = .unknown then []
  else (decodeFrom live c (isBreak longPulse longSpace) 0 Packer.start bytes).stream

end Sys2Proof.Machine
end

