-- ==== Sys2Proof/Machine/Normalizer.lean ====
section
/-! DEFINITION. The bucket sorter and remapper (42_bucket_sorter_remapper). Buckets are never merged (R125). -/

namespace Sys2Proof.Machine

/-- `rank`: the number of real buckets with a smaller `min` (R120). -/
def rankOf (live : List Bucket) (b : Bucket) : Nat := live.countP fun c => decide (c.min < b.min)

/-- `remap(f)`: the rank of a field that names a real bucket, any other field as it is (R122). -/
def remapField (live : List Bucket) (f : Nibble) : Nibble :=
  match live[f.toNat]? with
  | some b => BitVec.ofNat 4 (rankOf live b)
  | none => f

/-- One nibble pair, remapped field by field (R122). -/
def remapPair (live : List Bucket) (np : Byte) : Byte :=
  pack (remapField live (hi np)) (remapField live (lo np))

/-- The entry sort: `B'[rank(i)] = B[i]` for the real buckets, the others left where they are (R121, R123). -/
def BucketTable.sort (t : BucketTable) : BucketTable :=
  { t with entries := t.live.foldl (fun acc b => acc.setIfInBounds (rankOf t.live b) b) t.entries }

/-- The buffer remap over the indices `0..len−1` with the ranks of a table (R122). -/
def remapBuffer (p : Params) (live : List Bucket) (s : State) : Except Refusal State :=
  (List.range s.len.toNat).foldlM (fun s k => memWrite p k (remapPair live (Memory.read s.buf k)) s) s

/-- Normalize (R123): ranks from the table before the sort, for the table and the buffer alike. -/
def normalize (p : Params) (s : State) : Except Refusal State :=
  remapBuffer p s.table.live { s with table := s.table.sort }

end Sys2Proof.Machine
end

