-- ==== Sys2Proof/Machine/Finalize.lean ====
section
/-! DEFINITION. The finalize engine's step FIN (45_capture_buffer_controller R189), and the analysis it reports
(R190). -/

namespace Sys2Proof.Machine

/-- The analysis fields of the report, from a normalized session (R190). -/
def analysisOf (s : State) (pulse space : AxisThresholds) (c : Scan) : Analysis where
  n := s.table.n
  buckets := s.table.live
  buffer := s.stored
  pulse := pulse
  space := space
  bestLen := BitVec.ofNat 10 c.bestLen
  repeats := BitVec.ofNat 10 c.repeats
  nspans := BitVec.ofNat 10 c.spans.length
  spans := c.spans

/-- The decode fields of the report, from a normalized session (R190). -/
def decodingOf (p : Params) (s : State) (pulse space : AxisThresholds) : Decoding :=
  let c := classify p s.table.live pulse space
  { pwm := c.pwm
    pdm := c.pdm
    modulation := c.modulation
    markMid := c.markMid
    spaceMid := c.spaceMid
    stream := decodeStream s.table.live c pulse.long space.long s.stored }

/-- The report of a normalized session: noise carries the analysis alone (R144, R189). -/
def finReport (p : Params) (s : State) (pulse space : AxisThresholds) : Report :=
  let c := segment p pulse.long space.long s.stored
  if c.isNoise p then
    { s.briefReport .noiseNoRepeat with analysis := some (analysisOf s pulse space c) }
  else
    { s.briefReport .ok with
      analysis := some (analysisOf s pulse space c)
      decoding := some (decodingOf p s pulse space) }

/-- FIN after Normalize (R189); a table with no bucket is refused (R136, log entry 7). -/
def finishSession (p : Params) (s : State) : Except Refusal State :=
  match selectAxis p (axisCounts s.table.live .pulse), selectAxis p (axisCounts s.table.live .space) with
  | some pulse, some space => .ok (s.reportAndIdle (finReport p s pulse space))
  | _, _ => .error .noBucketToRank

/-- FIN (R189). -/
def finalize (p : Params) (s : State) : Except Refusal State :=
  match normalize p s with
  | .error r => .error r
  | .ok t => finishSession p t

end Sys2Proof.Machine
end

