-- ==== Sys2Proof/Machine/Schedule.lean ====
section
/-! DEFINITION. Which agent moves next (00_scope R7, 20_memory R58, 45_capture_buffer_controller R180): the head of
the agenda says so (log entries 1 and 2). -/

namespace Sys2Proof.Machine

/-- The command port's next command and the state with its word taken, when the next turn is a command's. -/
def fetch (s : State) : Option (Instr × State) :=
  match s.agenda with
  | .command word :: rest => some (decode word, { s with agenda := rest })
  | _ => none

/-- The step when no command is next: FIN where it is enabled, in FINALIZING alone (R180), else nothing happens. -/
def engineTurn (s : State) : Host.Outcome State Fault Refusal :=
  let t := { s with agenda := s.agenda.tail }
  match s.fsm with
  | .finalizing => answer (finalize configured t)
  | .idle => .next t
  | .capturing => .next t

/-- A command word lined up as the very next turn. -/
def offer (word : CmdWord) (s : State) : State := { s with agenda := .command word :: s.agenda }

end Sys2Proof.Machine
end

