-- ==== Sys2Proof/Machine/Step.lean ====
section
/-! DEFINITION. One step of the block: one command, or one turn of the finalize engine (45_capture_buffer_controller
R180, 20_memory R58). -/

namespace Sys2Proof.Machine

def step (s : State) : Host.Outcome State Fault Refusal :=
  match fetch s with
  | some (i, t) => exec i t
  | none => engineTurn s

/-- The word given by its low `nbits` bits, every bit above them 0, lined up as the next command (log entry 1). -/
def State.withFetchWord (s : State) (nbits w : Nat) : State := offer (BitVec.ofNat 32 (w % 2 ^ nbits)) s

end Sys2Proof.Machine
end

