-- ==== Sys2Proof/Safety.lean ====
section
/-! DEFINITION. What a sound state and a safe run of the block are, in the terms the statements use
(10_state R22-R27, 41_bucket_table_classifier R100, R101, 45_capture_buffer_controller R182, R190, R191). -/

namespace Sys2Proof.Machine

/-- A table of at most eight real buckets whose ranges are ranges, and pairwise disjoint (R22, R24, R25). -/
structure BucketTable.Disjoint (t : BucketTable) : Prop where
  count_le : t.n.toNat ≤ Config.maxBuckets
  ordered : ∀ b ∈ t.live, b.min ≤ b.max
  apart : t.live.Pairwise fun a b => a.max < b.min ∨ b.max < a.min

/-- A field of a stored pair names a real bucket or is the sentinel (R27). -/
def BucketTable.Names (t : BucketTable) (f : Nibble) : Prop := f.toNat < t.n.toNat ∨ f = Config.sentinel

/-- What SessionClear leaves of a session (R40). -/
structure State.Cleared (s : State) : Prop where
  table : s.table = BucketTable.empty
  buf : s.buf = []
  len : s.len = 0
  pendValid : s.pendValid = false
  pendW : s.pendW = 0

/-- Every state element of R39 at its reset value. -/
structure State.AtReset (s : State) : Prop where
  fsm : s.fsm = .idle
  n : s.table.n = 0
  entries : ∀ i, s.table.entry i = ⟨0, 0, 0, 0, 0⟩
  buf : ∀ k, Memory.read s.buf k = 0x00
  len : s.len = 0
  pendValid : s.pendValid = false
  pendW : s.pendW = 0
  timeMs : s.timeMs = 0
  startMs : s.startMs = 0
  lastEdgeMs : s.lastEdgeMs = 0
  endReason : s.endReason.code = 0
  cmdErr : s.cmdErr = false
  dropCount : s.dropCount = 0

/-- The invariant of the block: what R22-R27, R101 and R191 say of every state a run reaches. -/
structure State.Inv (s : State) : Prop where
  /-- At most eight buckets, with disjoint ranges (R22, R24, R25). -/
  table : s.table.Disjoint
  /-- No real bucket holds a width that is a footer marker (R160). -/
  widths : ∀ b ∈ s.table.live, 2 ≤ b.min.toNat
  /-- Nor is a pending pulse one (R28, R73, R184). -/
  pending : s.pendValid = true → 2 ≤ s.pendW.toNat
  /-- The combined counter counts both axes (R24). -/
  combined : ∀ b ∈ s.table.live, b.ccnt.toNat = b.pcnt.toNat + b.scnt.toNat
  /-- On each axis the buckets count no more than the stored half-bits (R101). -/
  counts : ∀ a, (axisCounts s.table.live a).sum ≤ s.len.toNat
  /-- The buffer is in its canonical form. -/
  buf_wf : Memory.wf s.buf = true
  /-- Nothing is listed at or above `len` (R26, R40). -/
  buf_within : ∀ c ∈ s.buf, c.1 < s.len.toNat
  /-- Every stored field names a real bucket or is the sentinel (R27). -/
  fields : ∀ k < s.len.toNat, s.table.Names (hi (Memory.read s.buf k)) ∧ s.table.Names (lo (Memory.read s.buf k))
  /-- The length never exceeds the capacity (R26). -/
  len_le : s.len.toNat ≤ configured.cap
  /-- No session is held in IDLE (R40). -/
  idle : s.fsm = .idle → s.Cleared
  /-- A live session has room for a half-bit; until the first is stored its first pulse is pending, and from then on
  there is a bucket (R136, R181, R182). -/
  capturing : s.fsm = .capturing →
    s.len.toNat < configured.cap ∧ (s.len = 0 → s.pendValid = true) ∧ (s.len ≠ 0 → s.table.n ≠ 0)
  /-- A session waiting for FIN holds 64 half-bits or more, has a bucket, and has no pending pulse (R182, R189). -/
  finalizing : s.fsm = .finalizing →
    configured.minHalfbits ≤ s.len.toNat ∧ s.table.n ≠ 0 ∧ s.pendValid = false

/-- The step answers a next state: the block has no fault and no stuck state (00_scope R8). -/
def State.Runs (s : State) : Prop := ∃ t, step s = .next t

/-- How many half-bits a session has when EndSession's guard looks at it (R182). -/
def State.endHalfbits (s : State) : Nat := s.len.toNat + if s.pendValid then 1 else 0

/-- The report of a session that the short-burst guard discards (R182, R190). -/
def shortReport (reason : EndReason) (s : State) : Report where
  status := .noiseShort
  endReason := reason
  halfbits := BitVec.ofNat 10 s.endHalfbits
  startMs := s.startMs
  lastEdgeMs := s.lastEdgeMs
  analysis := none
  decoding := none

/-- What EndSession leaves of everything it does not work on (R182). -/
structure SameClock (s t : State) : Prop where
  timeMs : t.timeMs = s.timeMs
  startMs : t.startMs = s.startMs
  lastEdgeMs : t.lastEdgeMs = s.lastEdgeMs
  cmdErr : t.cmdErr = s.cmdErr
  dropCount : t.dropCount = s.dropCount
  agenda : t.agenda = s.agenda

/-- The session as it enters FINALIZING: with the flushed pair when a pulse was pending, else as it was (R182). -/
structure Flushed (s t : State) : Prop where
  len : t.len.toNat = s.endHalfbits
  pendValid : t.pendValid = false
  pendW : t.pendW = s.pendW
  table : t.table = if s.pendValid then (classifyWidth configured s.pendW .pulse s.table).2 else s.table
  pulse : s.pendValid = true →
    hi (Memory.read t.buf s.len.toNat) = (classifyWidth configured s.pendW .pulse s.table).1
  space : s.pendValid = true → lo (Memory.read t.buf s.len.toNat) = Config.sentinel
  others : ∀ k, (s.pendValid = true → k ≠ s.len.toNat) → Memory.read t.buf k = Memory.read s.buf k

/-- `EndSession(reason)` leads from `s` to `t` (R182). -/
def Ended (reason : EndReason) (s t : State) : Prop :=
  SameClock s t ∧ t.endReason = reason ∧
    if s.endHalfbits < 64 then
      t.fsm = .idle ∧ t.Cleared ∧ t.reports = s.reports ++ [shortReport reason s]
    else t.fsm = .finalizing ∧ t.reports = s.reports ∧ Flushed s t

/-- Fields absent for a status are absent (R190). -/
def Report.Shaped (r : Report) : Prop :=
  (r.analysis.isSome ↔ r.status = .ok ∨ r.status = .noiseNoRepeat) ∧ (r.decoding.isSome ↔ r.status = .ok)

/-- The bits of a stream item, first bit first: the low `nbits` bits of a byte, highest of them first (R167). -/
def StreamItem.bits : StreamItem → List Bool
  | .byte value nbits => (List.range nbits.toNat).map fun i => value.getLsbD (nbits.toNat - 1 - i)
  | .mark _ _ _ _ _ => []

/-- Whether a stream item is a MARK. -/
def StreamItem.isMark : StreamItem → Bool
  | .byte _ _ => false
  | .mark _ _ _ _ _ => true

/-- The bits a half-bit gives: none for a break, else its pulse bit and its space bit on the decoded axes
(R165, R166, R168). -/
def dataBits (live : List Bucket) (c : Classification) (brk : Byte → Bool) (np : Byte) : List Bool :=
  if brk np then []
  else
    (if c.pwm then [decide (c.markMid < midAt live (hi np))] else []) ++
      (if c.pdm then [decide (c.spaceMid < midAt live (lo np))] else [])

/-- What a stream item shows, in order: the bits of a BYTE, or the MARK itself (R167, R168). -/
def StreamItem.trace : StreamItem → List (Bool ⊕ StreamItem)
  | .byte value nbits => (StreamItem.byte value nbits).bits.map .inl
  | .mark offset p s pTime sTime => [.inr (.mark offset p s pTime sTime)]

/-- What a half-bit, with its offset, must show in the stream: a break its MARK, with the midpoints its indices name
and 0 for an index that names no real bucket, any other half-bit its bits (R166, R168). -/
def halfbitTrace (live : List Bucket) (c : Classification) (brk : Byte → Bool) (x : Byte × Nat) :
    List (Bool ⊕ StreamItem) :=
  if brk x.1 then
    [.inr (.mark (BitVec.ofNat 10 x.2) (hi x.1) (lo x.1) (midAt live (hi x.1)) (midAt live (lo x.1)))]
  else (dataBits live c brk x.1).map .inl

/-- Index `i` of the counts is the highest of those but `skip`, the lowest such index (R136). -/
structure IsTop (counts : List Nat) (skip : Nat → Prop) (i count : Nat) : Prop where
  here : counts[i]? = some count
  allowed : ¬ skip i
  highest : ∀ j c, counts[j]? = some c → ¬ skip j → c ≤ count
  lowest : ∀ j, j < i → counts[j]? = some count → skip j

/-- `gap` is the highest count at an index that is neither of two, 0 when there is none (R137). -/
structure IsGap (counts : List Nat) (i j gap : Nat) : Prop where
  bound : ∀ k c, counts[k]? = some c → k ≠ i → k ≠ j → c ≤ gap
  reached : gap = 0 ∨ ∃ k, k ≠ i ∧ k ≠ j ∧ counts[k]? = some gap

end Sys2Proof.Machine
end

