-- ==== Sys2Proof/Certificates/Slice0/Obligations.lean ====
section
/-! DEFINITION. The statements about the block, one definition each, in the order of the spec's files. -/

open Sys2Proof Sys2Proof.Machine

/-! ### Configuration (00_scope R6, 70_reset_and_hazards R242) -/

/-- The parameters meet the constraints of R6 and R242, whatever the OPEN ones are (log entry 4). -/
def Obligations.ConfiguredParametersMeetConstraints : Prop := configured.Valid

/-! ### Encoding (30_encoding) -/

/-- Words of the spec, written out from R72-R77 and the vectors of 95_test_vectors, decode to their commands. -/
def Obligations.SpecWordsDecode : Prop :=
  decode 0x2000012C = .edge true false 0 300 ∧
  decode 0x1AB0012C = .edge false true 0xAB 300 ∧
  decode 0x00000002 = .edge false false 0 2 ∧
  decode 0x00000000 = .footer false false 0 false ∧
  decode 0x20000001 = .footer true false 0 true ∧
  decode 0x400003F3 = .tick 1011 ∧
  decode 0x80000000 = .reset ∧
  decode 0x80000001 = .reservedR 1 ∧
  decode 0xC0000000 = .reserved 0

/-- Decoding the word of a well-formed command gives the command back: no operand bit is dropped (R72-R77). -/
def Obligations.DecodeOfEncode : Prop := ∀ i : Instr, i.wellFormed = true → decode (encode i) = i

/-- Every word is the word of the command it decodes to, and that command is well-formed: decoding is total and
forgets no bit (R70, R81). -/
def Obligations.EncodeOfDecode : Prop :=
  ∀ word : CmdWord, encode (decode word) = word ∧ (decode word).wellFormed = true

/-- Which words are which commands, by their value (R71, R73). -/
def Obligations.CommandRanges : Prop :=
  ∀ word : CmdWord,
    ((∃ l q v b, decode word = .footer l q v b) ↔ word.toNat < 2 ^ 30 ∧ word.toNat % 2 ^ 20 ≤ 1) ∧
    ((∃ l q v w, decode word = .edge l q v w) ↔ word.toNat < 2 ^ 30 ∧ 1 < word.toNat % 2 ^ 20) ∧
    ((∃ t, decode word = .tick t) ↔ 2 ^ 30 ≤ word.toNat ∧ word.toNat < 2 ^ 31) ∧
    (decode word = .reset ↔ word.toNat = 2 ^ 31) ∧
    ((∃ x, decode word = .reservedR x) ↔ 2 ^ 31 < word.toNat ∧ word.toNat < 3 * 2 ^ 30) ∧
    ((∃ x, decode word = .reserved x) ↔ 3 * 2 ^ 30 ≤ word.toNat)

/-- The operands of EDGE, FOOTER and TICK are the fields of the word, neither sign-extended, scaled nor shifted, and
the saturated width is above the ceiling (R72, R76). -/
def Obligations.OperandsAreFields : Prop :=
  (∀ (word : CmdWord) l q v w, decode word = .edge l q v w →
    w.toNat = word.toNat % 2 ^ 20 ∧ l = word.toNat.testBit 29 ∧ q = word.toNat.testBit 28 ∧
      v.toNat = word.toNat / 2 ^ 20 % 2 ^ 8) ∧
  (∀ (word : CmdWord) l q v b, decode word = .footer l q v b →
    b = word.toNat.testBit 0 ∧ l = word.toNat.testBit 29 ∧ q = word.toNat.testBit 28 ∧
      v.toNat = word.toNat / 2 ^ 20 % 2 ^ 8) ∧
  (∀ (word : CmdWord) t, decode word = .tick t → t.toNat = word.toNat % 2 ^ 30) ∧
  configured.timeoutCeiling < 0xFFFFF

/-- The nibble pair holds the pulse index in its high nibble and the space index in its low one (R78). -/
def Obligations.NibblePairPacking : Prop :=
  (∀ p s : Nibble, (pack p s).toNat = p.toNat * 16 + s.toNat ∧ hi (pack p s) = p ∧ lo (pack p s) = s) ∧
  (∀ np : Byte, (hi np).toNat = np.toNat / 16 ∧ (lo np).toNat = np.toNat % 16)

/-! ### Reset and the session reset (10_state R39, R40) -/

/-- After power-on and after RESET, every state element has its reset value (R39). -/
def Obligations.ResetValues : Prop :=
  State.reset.AtReset ∧ ∀ s : State, ∃ t, exec .reset s = .next t ∧ t.AtReset

/-- RESET completes in every state with the reset state, whatever the state was, and emits no report; the agenda
and the reports already emitted are the outside's and stay (R187; the last clause is log entry 3). -/
def Obligations.ResetCommandResult : Prop :=
  ∀ s : State, exec .reset s = .next { State.reset with agenda := s.agenda, reports := s.reports }

/-- SessionClear zeroes the table, the buffer and the pending pulse, and touches no other register (R40). -/
def Obligations.SessionClearResult : Prop :=
  ∀ s : State,
    s.sessionClear.table.n = 0 ∧ (∀ i, s.sessionClear.table.entry i = ⟨0, 0, 0, 0, 0⟩) ∧
    (∀ k, Memory.read s.sessionClear.buf k = 0x00) ∧ s.sessionClear.len = 0 ∧
    s.sessionClear.pendValid = false ∧ s.sessionClear.pendW = 0 ∧
    s.sessionClear.fsm = s.fsm ∧ s.sessionClear.timeMs = s.timeMs ∧ s.sessionClear.startMs = s.startMs ∧
    s.sessionClear.lastEdgeMs = s.lastEdgeMs ∧ s.sessionClear.endReason = s.endReason ∧
    s.sessionClear.cmdErr = s.cmdErr ∧ s.sessionClear.dropCount = s.dropCount ∧
    s.sessionClear.agenda = s.agenda ∧ s.sessionClear.reports = s.reports

/-! ### Bucket table (41_bucket_table_classifier) -/

/-- The tolerance bands (R90). -/
def Obligations.ToleranceBands : Prop :=
  ∀ w : Dur,
    (w.toNat < 500 → configured.tol w = 400) ∧
    (500 ≤ w.toNat → w.toNat < 1000 → configured.tol w = 200) ∧
    (1000 ≤ w.toNat → w.toNat < 2000 → configured.tol w = 400) ∧
    (2000 ≤ w.toNat → w.toNat < 5000 → configured.tol w = 600) ∧
    (5000 ≤ w.toNat → configured.tol w = 1000)

/-- The near candidates and their distances under both readings; under SPAN the distance is within tolerance too
(R92). -/
def Obligations.NearCandidates : Prop :=
  ∀ (tol w d : Nat) (b : Bucket),
    (nearDistance .span tol w b = some d ↔
      (w < b.min.toNat ∧ b.max.toNat - w ≤ tol ∧ d = b.min.toNat - w) ∨
      (b.min.toNat ≤ w ∧ b.max.toNat < w ∧ w - b.min.toNat ≤ tol ∧ d = w - b.max.toNat)) ∧
    (nearDistance .edge tol w b = some d ↔
      (w < b.min.toNat ∧ b.min.toNat - w ≤ tol ∧ d = b.min.toNat - w) ∨
      (b.min.toNat ≤ w ∧ b.max.toNat < w ∧ w - b.max.toNat ≤ tol ∧ d = w - b.max.toNat)) ∧
    (b.min ≤ b.max → nearDistance .span tol w b = some d → d ≤ tol)

/-- A zero width gets the sentinel and changes nothing, for any parameters (R97 step 1). -/
def Obligations.ZeroWidthIsSentinel : Prop :=
  ∀ (p : Params) (axis : Axis) (t : BucketTable), classifyWidth p 0 axis t = (15, t)

/-- A width inside a real bucket's range is counted in the first such bucket, on its axis and in the combined
counter; nothing else changes (R91, R98). -/
def Obligations.ContainedWidthIsCounted : Prop :=
  ∀ (p : Params) (w : Dur) (axis : Axis) (t : BucketTable) (i : Nat) (b : Bucket),
    w ≠ 0 → t.live[i]? = some b → b.min ≤ w → w ≤ b.max →
    (∀ j c, j < i → t.live[j]? = some c → ¬ (c.min ≤ w ∧ w ≤ c.max)) →
    ∃ t', classifyWidth p w axis t = (BitVec.ofNat 4 i, t') ∧ t'.n = t.n ∧
      t'.entry i = { b with
        pcnt := if axis = .pulse then b.pcnt + 1 else b.pcnt
        scnt := if axis = .space then b.scnt + 1 else b.scnt
        ccnt := b.ccnt + 1 } ∧
      ∀ j, j ≠ i → t'.entry j = t.entry j

/-- Where no bucket contains the width, the nearest candidate wins, the lower index on equal distances; its range
grows to take the width in and it is counted; nothing else changes (R93, R94, R98). -/
def Obligations.NearestCandidateIsWidened : Prop :=
  ∀ (p : Params) (w : Dur) (axis : Axis) (t : BucketTable) (i d : Nat) (b : Bucket),
    w ≠ 0 → (∀ c ∈ t.live, ¬ (c.min ≤ w ∧ w ≤ c.max)) →
    t.live[i]? = some b → nearDistance p.nearRule (p.tol w).toNat w.toNat b = some d →
    (∀ j c e, t.live[j]? = some c → nearDistance p.nearRule (p.tol w).toNat w.toNat c = some e →
      d < e ∨ d = e ∧ i ≤ j) →
    ∃ t', classifyWidth p w axis t = (BitVec.ofNat 4 i, t') ∧ t'.n = t.n ∧
      t'.entry i =
        { min := if w < b.min then w else b.min
          max := if w < b.min then b.max else w
          pcnt := if axis = .pulse then b.pcnt + 1 else b.pcnt
          scnt := if axis = .space then b.scnt + 1 else b.scnt
          ccnt := b.ccnt + 1 } ∧
      ∀ j, j ≠ i → t'.entry j = t.entry j

/-- Where no bucket contains the width and none is near, a table with room gets a new bucket at index `n`, counted
once on its axis; the other entries stay (R95). -/
def Obligations.UnmatchedWidthAllocates : Prop :=
  ∀ (p : Params) (w : Dur) (axis : Axis) (t : BucketTable),
    w ≠ 0 → (∀ c ∈ t.live, ¬ (c.min ≤ w ∧ w ≤ c.max)) →
    (∀ c ∈ t.live, nearDistance p.nearRule (p.tol w).toNat w.toNat c = none) → t.n.toNat < 8 →
    ∃ t', classifyWidth p w axis t = (t.n, t') ∧ t'.n = t.n + 1 ∧
      t'.entry t.n.toNat =
        ⟨w, w, if axis = .pulse then 1 else 0, if axis = .space then 1 else 0, 1⟩ ∧
      ∀ j, j ≠ t.n.toNat → t'.entry j = t.entry j

/-- On a full table an unmatched width gets the sentinel and nothing changes (R96). -/
def Obligations.FullTableOverflows : Prop :=
  ∀ (p : Params) (w : Dur) (axis : Axis) (t : BucketTable),
    (∀ c ∈ t.live, ¬ (c.min ≤ w ∧ w ≤ c.max)) →
    (∀ c ∈ t.live, nearDistance p.nearRule (p.tol w).toNat w.toNat c = none) → t.n.toNat = 8 →
    classifyWidth p w axis t = (15, t)

/-- For any tolerances and either reading of the near test, classifying a width keeps the real buckets' ranges
disjoint and their number at most eight (R25, R100). -/
def Obligations.RangesStayDisjoint : Prop :=
  ∀ (p : Params) (w : Dur) (axis : Axis) (t : BucketTable),
    t.Disjoint → (classifyWidth p w axis t).2.Disjoint

/-- Ranges only ever grow and buckets never disappear (R24, R94, R100). -/
def Obligations.RangesOnlyWiden : Prop :=
  ∀ (p : Params) (w : Dur) (axis : Axis) (t : BucketTable) (i : Nat) (b : Bucket),
    t.live[i]? = some b →
    ∃ c, (classifyWidth p w axis t).2.live[i]? = some c ∧ c.min ≤ b.min ∧ b.max ≤ c.max

/-! ### Sorter and remapper (42_bucket_sorter_remapper) -/

/-- Sorting a table with disjoint ranges orders its real buckets strictly by `min`, as a rearrangement of the same
buckets; their number stays and nothing is merged (R121, R124, R125). -/
def Obligations.SortOrdersBuckets : Prop :=
  ∀ t : BucketTable, t.Disjoint →
    t.sort.n = t.n ∧ t.sort.live.Perm t.live ∧ t.sort.live.Pairwise fun a b => a.min < b.min

/-- After the sort a remapped field names the bucket it named before; the sentinel and every other field that names
no real bucket stay as they are (R122, R124). -/
def Obligations.RemapNamesSameBucket : Prop :=
  ∀ (t : BucketTable) (f : Nibble), t.Disjoint →
    (f.toNat < t.n.toNat → t.sort.live[(remapField t.live f).toNat]? = t.live[f.toNat]?) ∧
    (t.n.toNat ≤ f.toNat → remapField t.live f = f)

/-- Normalize sorts the table, remaps the stored pairs field by field, and leaves every other byte and every other
register, `n` and `len` among them, as it was (R123). -/
def Obligations.NormalizeResult : Prop :=
  ∀ s : State, s.len.toNat ≤ 512 → Memory.wf s.buf = true →
    ∃ buf, normalize configured s = .ok { s with table := s.table.sort, buf := buf } ∧
      (∀ k, k < s.len.toNat → Memory.read buf k =
        pack (remapField s.table.live (hi (Memory.read s.buf k))) (remapField s.table.live (lo (Memory.read s.buf k)))) ∧
      ∀ k, s.len.toNat ≤ k → Memory.read buf k = Memory.read s.buf k

/-- Normalizing a normalized session changes nothing (R124). -/
def Obligations.NormalizeIsIdempotent : Prop :=
  ∀ s t : State, s.table.Disjoint → Memory.wf s.buf = true →
    normalize configured s = .ok t → normalize configured t = .ok t

/-! ### Gap detector (43_gap_detector_freq_stats) -/

/-- SelectAxis from the highest count, the second-highest and the highest of the rest, ties to the lower index; and
the collapse of an axis with one bucket (R136, R137, R138). -/
def Obligations.SelectAxisResult : Prop :=
  (∀ (p : Params) (c : Nat), selectAxis p [c] = some ⟨0, 0, 0, BitVec.ofNat 33 c, true⟩) ∧
  ∀ (p : Params) (counts : List Nat) (i a j b gap : Nat),
    IsTop counts (fun _ => False) i a → IsTop counts (fun k => k = i) j b → IsGap counts i j gap →
    selectAxis p counts = some
      (if b = 0 ∨ b ≤ gap ∨ p.collapseDiv * b < a then
        { short := BitVec.ofNat 4 i, long := BitVec.ofNat 4 i, countGapMax := BitVec.ofNat 32 gap
          mergedCount := BitVec.ofNat 33 (a + b), singleLevel := true }
      else
        { short := BitVec.ofNat 4 (min i j), long := BitVec.ofNat 4 (max i j), countGapMax := BitVec.ofNat 32 gap
          mergedCount := BitVec.ofNat 33 (if i < j then b else a), singleLevel := false })

/-- The short index is at most the long one, both name real buckets, and they are equal exactly on a single-level
axis (R138, R139). -/
def Obligations.AxisThresholdsAreOrdered : Prop :=
  ∀ (p : Params) (counts : List Nat) (a : AxisThresholds), counts.length ≤ 8 → selectAxis p counts = some a →
    a.short ≤ a.long ∧ a.long.toNat < counts.length ∧ (a.singleLevel = true ↔ a.short = a.long)

/-- A half-bit is a break exactly when an index exceeds its axis's long threshold, and a sentinel always does
(R140). -/
def Obligations.BreakPredicate : Prop :=
  ∀ (longPulse longSpace : Nibble) (np : Byte),
    (isBreak longPulse longSpace np = true ↔
      longPulse.toNat < (hi np).toNat ∨ longSpace.toNat < (lo np).toNat) ∧
    (longPulse.toNat ≤ 7 → longSpace.toNat ≤ 7 → hi np = 15 ∨ lo np = 15 → isBreak longPulse longSpace np = true)

/-- A buffer without a break is one message (R141, R143). -/
def Obligations.UnbrokenBufferIsOneSpan : Prop :=
  ∀ (p : Params) (longPulse longSpace : Nibble) (bytes : List Byte), bytes ≠ [] →
    (∀ np ∈ bytes, isBreak longPulse longSpace np = false) →
    (segment p longPulse longSpace bytes).bestLen = bytes.length ∧
    (segment p longPulse longSpace bytes).repeats = 1 ∧
    (segment p longPulse longSpace bytes).spans = [spanOf 0 (bytes.length - 1) bytes.length]

/-- What the scan reports of any buffer: a length and a number of repeats within the buffer, at most eight spans,
each inside the buffer and no longer than its extent (R32, R142; 93_implementation_defined I18). -/
def Obligations.SegmentBounds : Prop :=
  ∀ (longPulse longSpace : Nibble) (bytes : List Byte), bytes.length ≤ 1023 →
    (segment configured longPulse longSpace bytes).bestLen ≤ bytes.length ∧
    (segment configured longPulse longSpace bytes).repeats ≤ bytes.length ∧
    (segment configured longPulse longSpace bytes).spans.length ≤ 8 ∧
    ∀ x ∈ (segment configured longPulse longSpace bytes).spans,
      x.start ≤ x.stop ∧ x.stop.toNat < bytes.length ∧ x.length.toNat ≤ x.stop.toNat - x.start.toNat + 1

/-- Three identical bursts, each `L − 1` data half-bits and then a gap half-bit, the last gap perhaps cut off, give
three repeats and three spans of length `L − 1` (R146), in every buffer whose length fits its ten bits (R26). -/
def Obligations.ThreeBurstsGiveThreeSpans : Prop :=
  ∀ (longPulse longSpace : Nibble) (burst last : List Byte) (gap1 gap2 : Byte) (L : Nat),
    2 ≤ L → burst.length = L - 1 → (∀ np ∈ burst, isBreak longPulse longSpace np = false) →
    isBreak longPulse longSpace gap1 = true → isBreak longPulse longSpace gap2 = true →
    (last = [] ∨ ∃ gap3, last = [gap3] ∧ isBreak longPulse longSpace gap3 = true) →
    (burst ++ gap1 :: burst ++ gap2 :: burst ++ last).length ≤ 1023 →
    (segment configured longPulse longSpace (burst ++ gap1 :: burst ++ gap2 :: burst ++ last)).repeats = 3 ∧
    (segment configured longPulse longSpace
      (burst ++ gap1 :: burst ++ gap2 :: burst ++ last)).spans.map (fun x => x.length.toNat) = [L - 1, L - 1, L - 1]

/-! ### Modulation classifier and decoder (44_modulation_classifier) -/

/-- A midpoint is the floor of the mean of the two ends, and that of every real bucket, in a state that meets the
invariant, is 2 or more (R160). -/
def Obligations.MidpointRoundsDown : Prop :=
  (∀ b : Bucket, b.mid.toNat = (b.min.toNat + b.max.toNat) / 2) ∧
  ∀ (s : State) (b : Bucket), s.Inv → b ∈ s.table.live → 2 ≤ b.mid.toNat

/-- The flags, the modulation code and the thresholds, from the midpoints of the selected buckets, for a table
whose selected indices name real buckets (R161, R162, R163, R164). -/
def Obligations.ClassifyResult : Prop :=
  ∀ (live : List Bucket) (pulse space : AxisThresholds) (sp lp ss ls : Bucket),
    live[pulse.short.toNat]? = some sp → live[pulse.long.toNat]? = some lp →
    live[space.short.toNat]? = some ss → live[space.long.toNat]? = some ls →
    let c := classify configured live pulse space
    (c.pwm = true ↔ 2 * sp.mid.toNat < lp.mid.toNat) ∧
    (c.pdm = true ↔ 2 * ss.mid.toNat < ls.mid.toNat) ∧
    c.modulation.code.toNat = c.pwm.toNat + 2 * c.pdm.toNat ∧
    c.markMid.toNat = (sp.mid.toNat + lp.mid.toNat) / 2 ∧
    c.spaceMid.toNat = (ss.mid.toNat + ls.mid.toNat) / 2

/-- A single-level axis sets no flag, so no bit is extracted from it (R139, R161, R162). -/
def Obligations.SingleLevelAxisSetsNoFlag : Prop :=
  ∀ (p : Params) (live : List Bucket) (counts : List Nat) (a : AxisThresholds),
    selectAxis p counts = some a → a.singleLevel = true → modulationFlag configured live a = false

/-- The bits of the decoded stream, in order, are the bits of the data half-bits, in order, pulse bit before space
bit: none is lost, added or moved (R165, R166, R167, R170); and an UNKNOWN modulation gives an empty stream
(R171). -/
def Obligations.StreamBitsAreDataBits : Prop :=
  ∀ (live : List Bucket) (c : Classification) (longPulse longSpace : Nibble) (bytes : List Byte),
    (c.modulation ≠ .unknown →
      (decodeStream live c longPulse longSpace bytes).flatMap StreamItem.bits =
        bytes.flatMap (dataBits live c (isBreak longPulse longSpace))) ∧
    (c.modulation = .unknown → decodeStream live c longPulse longSpace bytes = [])

/-- The MARK items of the stream are the break half-bits, in order, each with its offset, its indices and its
bucket midpoints, 0 for an index that names no real bucket; and bits and MARK items stand in the stream in the order
of their half-bits, so the bits before a MARK are those of the data half-bits before its offset (R168, R170). -/
def Obligations.MarksAreBreaks : Prop :=
  ∀ (live : List Bucket) (c : Classification) (longPulse longSpace : Nibble) (bytes : List Byte),
    c.modulation ≠ .unknown →
    ((decodeStream live c longPulse longSpace bytes).filter StreamItem.isMark =
      (bytes.zipIdx.filter fun x => isBreak longPulse longSpace x.1).map fun x =>
        .mark (BitVec.ofNat 10 x.2) (hi x.1) (lo x.1) (midAt live (hi x.1)) (midAt live (lo x.1))) ∧
    (decodeStream live c longPulse longSpace bytes).flatMap StreamItem.trace =
      bytes.zipIdx.flatMap (halfbitTrace live c (isBreak longPulse longSpace))

/-- Every BYTE item holds 1 to 8 bits, with zeros above them; one that another BYTE follows holds 8, so a partial byte
stands only before a MARK or at the end (R167, R168); and the stream holds at most two bits for each half-bit
(R169). -/
def Obligations.StreamBytesAreBounded : Prop :=
  ∀ (live : List Bucket) (c : Classification) (longPulse longSpace : Nibble) (bytes : List Byte),
    (∀ v n, StreamItem.byte v n ∈ decodeStream live c longPulse longSpace bytes →
      1 ≤ n.toNat ∧ n.toNat ≤ 8 ∧ v.toNat < 2 ^ n.toNat) ∧
    (∀ i v n v' n', (decodeStream live c longPulse longSpace bytes)[i]? = some (.byte v n) →
      (decodeStream live c longPulse longSpace bytes)[i + 1]? = some (.byte v' n') → n = 8) ∧
    ((decodeStream live c longPulse longSpace bytes).flatMap StreamItem.bits).length ≤ 2 * bytes.length

/-! ### Commands (45_capture_buffer_controller) -/

/-- EndSession, for every reason: the flush of a pending pulse as a pair whose space nibble is the sentinel, then the
short-burst guard, then FINALIZING (R182). -/
def Obligations.EndSessionResult : Prop :=
  ∀ (reason : EndReason) (s : State), Memory.wf s.buf = true → (s.pendValid = true → s.len.toNat < 512) →
    ∃ t, endSession configured reason s = .ok t ∧ Ended reason s t

/-- FOOTER in each state: no effect in IDLE, the end of the session in CAPTURING, a counted drop in FINALIZING; its
operands never matter (R185). -/
def Obligations.FooterResult : Prop :=
  ∀ (l q : Bool) (v : BitVec 8) (b : Bool) (s : State),
    (s.fsm = .idle → exec (.footer l q v b) s = .next s) ∧
    (s.fsm = .capturing → Memory.wf s.buf = true → (s.pendValid = true → s.len.toNat < 512) →
      ∃ t, exec (.footer l q v b) s = .next t ∧ Ended .footer { s with lastEdgeMs := s.timeMs } t) ∧
    (s.fsm = .finalizing → exec (.footer l q v b) s =
      .next { s with dropCount := BitVec.ofNat 32 (min (s.dropCount.toNat + 1) (2 ^ 32 - 1)) })

/-- EDGE in IDLE: a pulse strictly inside the band starts a session with itself as the pending pulse, an empty table
and an empty buffer; any other edge has no effect (R181, R184). -/
def Obligations.EdgeInIdleResult : Prop :=
  ∀ (l q : Bool) (v : BitVec 8) (w : Dur) (s : State), s.fsm = .idle →
    exec (.edge l q v w) s = .next
      (if l = true ∧ configured.debounceFloor < w.toNat ∧ w.toNat < configured.timeoutCeiling then
        { s with
          fsm := .capturing, table := BucketTable.empty, buf := [], len := 0
          pendValid := true, pendW := w, startMs := s.timeMs, lastEdgeMs := s.timeMs }
      else s)

/-- An even edge in CAPTURING, not above the ceiling, becomes the pending pulse; only the last-edge time changes
besides (R184). -/
def Obligations.EvenEdgeIsRemembered : Prop :=
  ∀ (l q : Bool) (v : BitVec 8) (w : Dur) (s : State),
    s.fsm = .capturing → s.pendValid = false → w.toNat ≤ configured.timeoutCeiling →
    exec (.edge l q v w) s = .next { s with lastEdgeMs := s.timeMs, pendW := w, pendValid := true }

/-- An odd edge in CAPTURING, not above the ceiling, is classified with the pending pulse and appended at `buf[len]`;
the append that fills the buffer ends the session as BUFFER_FULL; every other byte and register stays (R183, R184). -/
def Obligations.OddEdgeIsAppended : Prop :=
  ∀ (l q : Bool) (v : BitVec 8) (w : Dur) (s : State),
    s.fsm = .capturing → s.pendValid = true → w.toNat ≤ configured.timeoutCeiling → s.len.toNat < 512 →
    Memory.wf s.buf = true →
    ∃ buf, exec (.edge l q v w) s = .next
        { s with
          lastEdgeMs := s.timeMs
          table := (classifyWidth configured w .space (classifyWidth configured s.pendW .pulse s.table).2).2
          buf := buf
          len := s.len + 1
          pendValid := false
          fsm := if s.len.toNat = 511 then .finalizing else .capturing
          endReason := if s.len.toNat = 511 then .bufferFull else s.endReason } ∧
      hi (Memory.read buf s.len.toNat) = (classifyWidth configured s.pendW .pulse s.table).1 ∧
      lo (Memory.read buf s.len.toNat) =
        (classifyWidth configured w .space (classifyWidth configured s.pendW .pulse s.table).2).1 ∧
      ∀ k, k ≠ s.len.toNat → Memory.read buf k = Memory.read s.buf k

/-- An edge above the ceiling in CAPTURING ends the session and is not classified (R184). -/
def Obligations.CeilingEdgeEndsSession : Prop :=
  ∀ (l q : Bool) (v : BitVec 8) (w : Dur) (s : State),
    s.fsm = .capturing → configured.timeoutCeiling < w.toNat → (s.pendValid = true → s.len.toNat < 512) →
    Memory.wf s.buf = true →
    ∃ t, exec (.edge l q v w) s = .next t ∧ Ended .ceiling { s with lastEdgeMs := s.timeMs } t

/-- EDGE in FINALIZING is dropped and counted, the counter saturating; nothing else changes (R31, R184). -/
def Obligations.EdgeWhileFinalizingIsDropped : Prop :=
  ∀ (l q : Bool) (v : BitVec 8) (w : Dur) (s : State), s.fsm = .finalizing →
    exec (.edge l q v w) s =
      .next { s with dropCount := BitVec.ofNat 32 (min (s.dropCount.toNat + 1) (2 ^ 32 - 1)) }

/-- TICK writes the time; in CAPTURING, a gap since the last edge, modulo `2^30`, above the timeout abandons the
session with a status-only report and no flush (R186). -/
def Obligations.TickResult : Prop :=
  ∀ (now : TimeMs) (s : State),
    exec (.tick now) s = .next
      (if s.fsm = .capturing ∧
          configured.sessionTimeoutMs < (now.toNat + 2 ^ 30 - s.lastEdgeMs.toNat) % 2 ^ 30 then
        { s with
          fsm := .idle, table := BucketTable.empty, buf := [], len := 0, pendValid := false, pendW := 0
          timeMs := now, endReason := .watchdog
          reports := s.reports ++ [{
            status := .abandoned, endReason := .watchdog, halfbits := s.len, startMs := s.startMs
            lastEdgeMs := s.lastEdgeMs, analysis := none, decoding := none }] }
      else { s with timeMs := now })

/-- A reserved word of either kind sets `cmd_err` and changes nothing else, in every state (R188). -/
def Obligations.ReservedWordSetsErrorOnly : Prop :=
  ∀ (x : BitVec 30) (s : State),
    exec (.reserved x) s = .next { s with cmdErr := true } ∧ exec (.reservedR x) s = .next { s with cmdErr := true }

/-! ### FIN (45_capture_buffer_controller R189, R190) -/

/-- FIN, from a session that meets the invariant, emits exactly one report and clears the session into IDLE; the
times, the status registers and the end reason stay. The report is NOISE_NOREPEAT or OK, and carries an analysis
(R144, R189). The model's own are: that FIN takes its turn, when no command is next, also on an exhausted agenda
(log entry 2), that it takes that turn off the agenda (log entry 1), and that a report emitted is one appended to
`reports` (log entry 3). -/
def Obligations.FinResult : Prop :=
  ∀ s : State, s.Inv → s.fsm = .finalizing → (∀ word rest, s.agenda ≠ .command word :: rest) →
    ∃ t r a, step s = .next t ∧ t.fsm = .idle ∧ t.Cleared ∧ t.reports = s.reports ++ [r] ∧
      t.agenda = s.agenda.tail ∧ t.timeMs = s.timeMs ∧ t.startMs = s.startMs ∧ t.lastEdgeMs = s.lastEdgeMs ∧
      t.endReason = s.endReason ∧ t.cmdErr = s.cmdErr ∧ t.dropCount = s.dropCount ∧
      r.endReason = s.endReason ∧ r.halfbits = s.len ∧ r.startMs = s.startMs ∧ r.lastEdgeMs = s.lastEdgeMs ∧
      r.analysis = some a ∧ r.Shaped ∧
      (r.status = if a.bestLen.toNat ≤ 64 ∧ a.repeats.toNat < 2 then .noiseNoRepeat else .ok)

/-- The analysis FIN reports is of the normalized session: the same buckets in strictly rising order, and the stored
pairs remapped to them (R123, R124); the thresholds are SelectAxis's of those buckets' counts, the message length,
repeats and spans are Segment's of that buffer with those thresholds, and for status OK the flags, modulation, mids and
stream are Classify's and Decode's of the same (R189, R190). When FIN takes its turn, and where its report is appended, are the
model's own (log entries 1, 2, 3). -/
def Obligations.FinReportsNormalizedSession : Prop :=
  ∀ s t : State, s.Inv → s.fsm = .finalizing → (∀ word rest, s.agenda ≠ .command word :: rest) →
    step s = .next t → ∀ r a, t.reports = s.reports ++ [r] → r.analysis = some a →
      a.n = s.table.n ∧ a.buckets.Perm s.table.live ∧ a.buckets.Pairwise (fun x y => x.min < y.min) ∧
      a.buffer.length = s.len.toNat ∧
      selectAxis configured (axisCounts a.buckets .pulse) = some a.pulse ∧
      selectAxis configured (axisCounts a.buckets .space) = some a.space ∧
      a.bestLen.toNat = (segment configured a.pulse.long a.space.long a.buffer).bestLen ∧
      a.repeats.toNat = (segment configured a.pulse.long a.space.long a.buffer).repeats ∧
      a.nspans.toNat = a.spans.length ∧
      a.spans = (segment configured a.pulse.long a.space.long a.buffer).spans ∧
      (r.status = .ok → ∃ d, r.decoding = some d ∧
        d.pwm = (classify configured a.buckets a.pulse a.space).pwm ∧
        d.pdm = (classify configured a.buckets a.pulse a.space).pdm ∧
        d.modulation = (classify configured a.buckets a.pulse a.space).modulation ∧
        d.markMid = (classify configured a.buckets a.pulse a.space).markMid ∧
        d.spaceMid = (classify configured a.buckets a.pulse a.space).spaceMid ∧
        d.stream = decodeStream a.buckets (classify configured a.buckets a.pulse a.space) a.pulse.long a.space.long
          a.buffer) ∧
      ∀ k np, a.buffer[k]? = some np →
        (∀ f, hi (Memory.read s.buf k) = f → f.toNat < s.table.n.toNat →
          a.buckets[(hi np).toNat]? = s.table.live[f.toNat]?) ∧
        (∀ f, lo (Memory.read s.buf k) = f → f.toNat < s.table.n.toNat →
          a.buckets[(lo np).toNat]? = s.table.live[f.toNat]?) ∧
        (hi (Memory.read s.buf k) = 15 → hi np = 15) ∧ (lo (Memory.read s.buf k) = 15 → lo np = 15)

/-! ### The step and the whole machine -/

/-- When the next turn is a command, the step is that command's, decoded, with its word taken and nothing else
changed around it; and a word placed by `withFetchWord` is the next command (20_memory R58, R180; log entry 1). -/
def Obligations.StepRunsDecodedCommand : Prop :=
  (∀ (s : State) (word : CmdWord) (rest : List Turn), s.agenda = .command word :: rest →
    step s = exec (decode word) { s with agenda := rest }) ∧
  ∀ (s : State) (w : Nat), w < 2 ^ 32 →
    step (s.withFetchWord 32 w) = exec (decode (BitVec.ofNat 32 w)) s

/-- Outside FINALIZING no turn of the finalize engine does anything (R180, R189; log entry 2). -/
def Obligations.EngineIdlesOutsideFinalizing : Prop :=
  ∀ s : State, s.fsm ≠ .finalizing → (∀ word rest, s.agenda ≠ .command word :: rest) →
    step s = .next { s with agenda := s.agenda.tail }

/-- The reset state meets the invariant (R39). -/
def Obligations.InvariantAtReset : Prop := State.reset.Inv

/-- Every step, a command's or the finalize engine's, keeps the invariant (R22-R27, R100, R101, R191). -/
def Obligations.StepKeepsInvariant : Prop := ∀ s t : State, s.Inv → step s = .next t → t.Inv

/-- Every step from a state that meets the invariant answers a next state: no fault, no refusal, no stuck state
(R8, R220). -/
def Obligations.StepAlwaysAnswers : Prop := ∀ s : State, s.Inv → s.Runs

/-- In a state that meets the invariant no counter exceeds its bound (R101). -/
def Obligations.CountersAreBounded : Prop :=
  ∀ (s : State) (b : Bucket), s.Inv → b ∈ s.table.live →
    b.pcnt.toNat ≤ 512 ∧ b.scnt.toNat ≤ 512 ∧ b.ccnt.toNat ≤ 1024

/-- A step emits at most one report, of the shape its status gives it, and after a report the block is in IDLE
(R180, R190, R191). -/
def Obligations.OneReportThenIdle : Prop :=
  ∀ s t : State, step s = .next t →
    t.reports = s.reports ∨ ∃ r, t.reports = s.reports ++ [r] ∧ r.Shaped ∧ t.fsm = .idle

/-- Only a session of 64 half-bits or more enters FINALIZING, and only from CAPTURING (R191). -/
def Obligations.FinalizingNeedsHalfbits : Prop :=
  ∀ (i : Instr) (s t : State), exec i s = .next t → s.fsm ≠ .finalizing → t.fsm = .finalizing →
    s.fsm = .capturing ∧ 64 ≤ t.len.toNat

/-- While FINALIZING no command but RESET changes the session, and RESET alone leaves FINALIZING (R59). -/
def Obligations.FinalizingIsolatesSession : Prop :=
  ∀ (i : Instr) (s t : State), s.fsm = .finalizing → i ≠ .reset → exec i s = .next t →
    t.fsm = .finalizing ∧ t.table = s.table ∧ t.buf = s.buf ∧ t.len = s.len ∧ t.pendValid = s.pendValid ∧
    t.pendW = s.pendW ∧ t.startMs = s.startMs ∧ t.lastEdgeMs = s.lastEdgeMs ∧ t.endReason = s.endReason ∧
    t.reports = s.reports ∧ (t.timeMs ≠ s.timeMs → ∃ now, i = .tick now ∧ t.timeMs = now)

/-- In IDLE only an EDGE that passes the start band or a RESET changes session state (R235). -/
def Obligations.IdleIsQuiescent : Prop :=
  ∀ (i : Instr) (s t : State), s.fsm = .idle → exec i s = .next t → i ≠ .reset →
    (∀ q v w, i = .edge true q v w → ¬ (configured.debounceFloor < w.toNat ∧ w.toNat < configured.timeoutCeiling)) →
    t.fsm = .idle ∧ t.table = s.table ∧ t.buf = s.buf ∧ t.len = s.len ∧ t.pendValid = s.pendValid ∧
    t.pendW = s.pendW ∧ t.startMs = s.startMs ∧ t.lastEdgeMs = s.lastEdgeMs ∧ t.endReason = s.endReason ∧
    t.dropCount = s.dropCount ∧ t.reports = s.reports

/-- `cmd_err` is set by the reserved words alone, and once set it stays until RESET (R31, R188). -/
def Obligations.CommandErrorIsSticky : Prop :=
  ∀ (i : Instr) (s t : State), i ≠ .reset → exec i s = .next t →
    (t.cmdErr = true ↔ s.cmdErr = true ∨ (∃ x, i = .reserved x) ∨ ∃ x, i = .reservedR x)

/-- Apart from RESET, `time_ms` is written by TICK alone, `drop_count` in FINALIZING alone, and `start_ms` in IDLE
alone (R29, R31, R233). -/
def Obligations.OnlyTickMovesTime : Prop :=
  ∀ (i : Instr) (s t : State), i ≠ .reset → exec i s = .next t →
    ((∀ now, i ≠ .tick now) → t.timeMs = s.timeMs) ∧
    (s.fsm ≠ .finalizing → t.dropCount = s.dropCount) ∧
    (s.fsm ≠ .idle → t.startMs = s.startMs)

/-- Two runs of EDGE that differ in Q and QUAL alone are the same, and outside IDLE so are two that differ in L;
FOOTER's are the same whatever its operands (R72, R185). -/
def Obligations.IgnoredOperandsDoNotMatter : Prop :=
  (∀ (l q q' : Bool) (v v' : BitVec 8) (w : Dur) (s : State), exec (.edge l q v w) s = exec (.edge l q' v' w) s) ∧
  (∀ (l l' q : Bool) (v : BitVec 8) (w : Dur) (s : State), s.fsm ≠ .idle →
    exec (.edge l q v w) s = exec (.edge l' q v w) s) ∧
  ∀ (l l' q q' : Bool) (v v' : BitVec 8) (b b' : Bool) (s : State),
    exec (.footer l q v b) s = exec (.footer l' q' v' b') s

/-- No command touches a report already emitted, and none touches what is lined up after it (R54, R58). -/
def Obligations.CommandsLeaveInterfaceAlone : Prop :=
  ∀ (i : Instr) (s t : State), exec i s = .next t → t.agenda = s.agenda ∧ s.reports <+: t.reports
end

