-- ==== Sys2Proof/Laws/Classifier.lean ====
section
/-! SUPPORT. What ClassifyWidth can do (41_bucket_table_classifier R97): one case for each of its steps. -/

namespace Sys2Proof.Machine

@[simp] theorem BucketTable.modify_n (t : BucketTable) (i : Nat) (f : Bucket → Bucket) : (t.modify i f).n = t.n := rfl

@[simp] theorem BucketTable.allocate_n (t : BucketTable) (b : Bucket) : (t.allocate b).n = t.n + 1 := rfl

theorem BucketTable.live_length (t : BucketTable) (h : t.n.toNat ≤ Config.maxBuckets) :
    t.live.length = t.n.toNat := by
  simpa [BucketTable.live] using h

/-- A real bucket is the entry at its index. -/
theorem BucketTable.entry_of_live {t : BucketTable} {i : Nat} {b : Bucket} (h : t.live[i]? = some b) :
    t.entry i = b := by
  unfold BucketTable.live at h
  rw [List.getElem?_take] at h
  split_ifs at h
  simp [BucketTable.entry, List.getD_eq_getElem?_getD, h]

/-- The table after a real bucket is modified: that bucket changed, the others not. -/
theorem BucketTable.live_modify (t : BucketTable) (i : Nat) (f : Bucket → Bucket) :
    (t.modify i f).live = t.live.set i (f (t.entry i)) := by
  simp [BucketTable.live, BucketTable.modify, List.take_set]

/-- The table after an allocation: one more real bucket, at the end. -/
theorem BucketTable.live_allocate (t : BucketTable) (b : Bucket) (h : t.n.toNat < Config.maxBuckets) :
    (t.allocate b).live = t.live ++ [b] := by
  have hn : (t.n + 1).toNat = t.n.toNat + 1 := by
    rw [BitVec.toNat_add]
    simp only [Config.maxBuckets] at h
    simp
    omega
  have hlen : t.entries.toList.length = Config.maxBuckets := by simp
  simp only [BucketTable.live, BucketTable.allocate, Vector.toList_setIfInBounds]
  rw [hn, List.take_add_one, List.take_set, List.getElem?_set_self (by omega), List.set_eq_of_length_le (by simp)]
  rfl

theorem Bucket.contains_iff {w : Dur} {b : Bucket} : b.contains w = true ↔ b.min ≤ w ∧ w ≤ b.max := by
  simp [Bucket.contains]

/-- The five things ClassifyWidth can do. -/
theorem classifyWidth_cases (p : Params) (w : Dur) (axis : Axis) (t : BucketTable) :
    w = 0 ∧ classifyWidth p w axis t = (Config.sentinel, t) ∨
    (∃ i, w ≠ 0 ∧ t.live.findIdx? (Bucket.contains w) = some i ∧
      classifyWidth p w axis t = (BitVec.ofNat 4 i, t.modify i fun b => b.countHit axis)) ∨
    (∃ j d, w ≠ 0 ∧ t.live.findIdx? (Bucket.contains w) = none ∧ nearest p w t.live = some (j, d) ∧
      classifyWidth p w axis t = (BitVec.ofNat 4 j, t.modify j fun b => (b.widen w).countHit axis)) ∨
    (w ≠ 0 ∧ t.live.findIdx? (Bucket.contains w) = none ∧ nearest p w t.live = none ∧
      t.n.toNat < Config.maxBuckets ∧
      classifyWidth p w axis t = (t.n, t.allocate (Bucket.single w axis))) ∨
    (w ≠ 0 ∧ t.live.findIdx? (Bucket.contains w) = none ∧ nearest p w t.live = none ∧
      Config.maxBuckets ≤ t.n.toNat ∧ classifyWidth p w axis t = (Config.sentinel, t)) := by
  unfold classifyWidth
  by_cases h0 : w = 0
  · exact .inl ⟨h0, by simp [h0]⟩
  · simp only [h0, if_false, false_and, false_or, not_false_eq_true, true_and, ne_eq]
    cases hf : t.live.findIdx? (Bucket.contains w) with
    | some i => exact .inl ⟨i, rfl, rfl⟩
    | none =>
      cases hn : nearest p w t.live with
      | some x => exact .inr (.inl ⟨x.1, x.2, rfl, rfl, rfl⟩)
      | none =>
        by_cases h8 : t.n.toNat < Config.maxBuckets
        · exact .inr (.inr (.inl ⟨rfl, rfl, h8, by simp only [h8, if_true]⟩))
        · exact .inr (.inr (.inr ⟨rfl, rfl, not_lt.1 h8, by simp only [h8, if_false]⟩))

end Sys2Proof.Machine
end

