-- ==== Sys2Proof/Laws/Memory.lean ====
section
/-! SUPPORT. The capture buffer as a memory: a read after a write to the same index gives the byte written, a write
leaves every other index alone, and every operation keeps the canonical form. -/

namespace Sys2Proof.Machine

theorem Memory.wf_cons {a : Nat} {b : Byte} {m : Memory} :
    Memory.wf ((a, b) :: m) = true ↔ b ≠ Memory.unlisted ∧ (∀ c ∈ m, a < c.1) ∧ Memory.wf m = true := by
  simp [Memory.wf, and_assoc]

/-- Below every listed address the buffer reads as unlisted. -/
theorem Memory.read_below {m : Memory} {k : Nat} (h : ∀ c ∈ m, k < c.1) : Memory.read m k = Memory.unlisted := by
  induction m with
  | nil => rfl
  | cons c m ih =>
    have hc := h c List.mem_cons_self
    rw [Memory.read, if_neg (by omega)]
    exact ih fun d hd => h d (List.mem_cons_of_mem _ hd)

/-- A write lists no address but its own and those listed before. -/
theorem Memory.mem_write {m : Memory} {k : Nat} {v : Byte} {c : Host.Cell} (h : c ∈ Memory.write m k v) :
    c = (k, v) ∨ c ∈ m := by
  induction m with
  | nil =>
    simp only [Memory.write] at h
    split at h <;> simp_all
  | cons d m ih =>
    simp only [Memory.write] at h
    split_ifs at h <;> simp only [List.mem_cons] at h ⊢ <;> tauto

@[simp] theorem Memory.wf_write {m : Memory} {k : Nat} {v : Byte} (h : Memory.wf m = true) :
    Memory.wf (Memory.write m k v) = true := by
  induction m with
  | nil =>
    simp only [Memory.write]
    split_ifs with hv
    · rfl
    · exact Memory.wf_cons.2 ⟨hv, by simp, rfl⟩
  | cons d m ih =>
    obtain ⟨a, b⟩ := d
    obtain ⟨hb, hlt, hm⟩ := Memory.wf_cons.1 h
    simp only [Memory.write]
    split_ifs with hka hv hv hv
    · exact h
    · refine Memory.wf_cons.2 ⟨hv, ?_, h⟩
      intro c hc
      rcases List.mem_cons.1 hc with rfl | hc
      · exact hka
      · exact hka.trans (hlt c hc)
    · exact hm
    · exact Memory.wf_cons.2 ⟨hv, by simpa [‹k = a›] using hlt, hm⟩
    · refine Memory.wf_cons.2 ⟨hb, ?_, ih hm⟩
      intro c hc
      rcases Memory.mem_write hc with rfl | hc
      · simp only; omega
      · exact hlt c hc

theorem Memory.read_write_same {m : Memory} {k : Nat} {v : Byte} (h : Memory.wf m = true) :
    Memory.read (Memory.write m k v) k = v := by
  induction m with
  | nil =>
    simp only [Memory.write]
    split_ifs with hv <;> simp [Memory.read, hv]
  | cons d m ih =>
    obtain ⟨a, b⟩ := d
    obtain ⟨-, hlt, hm⟩ := Memory.wf_cons.1 h
    simp only [Memory.write]
    split_ifs with hka hv hka' hv
    · rw [hv]
      refine Memory.read_below fun c hc => ?_
      rcases List.mem_cons.1 hc with rfl | hc
      · exact hka
      · exact hka.trans (hlt c hc)
    · simp [Memory.read]
    · rw [hv, hka']
      exact Memory.read_below hlt
    · simp [Memory.read]
    · rw [Memory.read, if_neg (by omega)]
      exact ih hm

theorem Memory.read_write_other {m : Memory} {k j : Nat} {v : Byte} (hjk : j ≠ k) :
    Memory.read (Memory.write m k v) j = Memory.read m j := by
  induction m with
  | nil =>
    simp only [Memory.write]
    split_ifs
    · rfl
    · simp [Memory.read, hjk.symm]
  | cons d m ih =>
    obtain ⟨a, b⟩ := d
    simp only [Memory.write]
    split_ifs with hka hv hka' hv
    · rfl
    · rw [Memory.read, if_neg (Ne.symm hjk)]
    · subst hka'
      simp [Memory.read, Ne.symm hjk]
    · subst hka'
      simp [Memory.read, Ne.symm hjk]
    · simp only [Memory.read, ih]

@[simp] theorem Memory.wf_empty : Memory.wf [] = true := rfl

@[simp] theorem Memory.read_empty (k : Nat) : Memory.read [] k = 0x00 := rfl

/-- The reset state's buffer is in canonical form. -/
theorem State.reset_buf_wf : Memory.wf State.reset.buf = true := rfl

/-- SessionClear's buffer is in canonical form. -/
theorem State.sessionClear_buf_wf (s : State) : Memory.wf s.sessionClear.buf = true := rfl

end Sys2Proof.Machine
end

