-- ==== Sys2Proof/Laws/State.lean ====
section
/-! SUPPORT. What each update of the state does to each field, once and for all, so that no proof unfolds a record
update. -/

namespace Sys2Proof.Machine

@[simp] theorem State.sessionClear_fsm (s : State) : s.sessionClear.fsm = s.fsm := rfl
@[simp] theorem State.sessionClear_table (s : State) : s.sessionClear.table = BucketTable.empty := rfl
@[simp] theorem State.sessionClear_buf (s : State) : s.sessionClear.buf = [] := rfl
@[simp] theorem State.sessionClear_len (s : State) : s.sessionClear.len = 0 := rfl
@[simp] theorem State.sessionClear_pendValid (s : State) : s.sessionClear.pendValid = false := rfl
@[simp] theorem State.sessionClear_pendW (s : State) : s.sessionClear.pendW = 0 := rfl
@[simp] theorem State.sessionClear_timeMs (s : State) : s.sessionClear.timeMs = s.timeMs := rfl
@[simp] theorem State.sessionClear_startMs (s : State) : s.sessionClear.startMs = s.startMs := rfl
@[simp] theorem State.sessionClear_lastEdgeMs (s : State) : s.sessionClear.lastEdgeMs = s.lastEdgeMs := rfl
@[simp] theorem State.sessionClear_endReason (s : State) : s.sessionClear.endReason = s.endReason := rfl
@[simp] theorem State.sessionClear_cmdErr (s : State) : s.sessionClear.cmdErr = s.cmdErr := rfl
@[simp] theorem State.sessionClear_dropCount (s : State) : s.sessionClear.dropCount = s.dropCount := rfl
@[simp] theorem State.sessionClear_agenda (s : State) : s.sessionClear.agenda = s.agenda := rfl
@[simp] theorem State.sessionClear_reports (s : State) : s.sessionClear.reports = s.reports := rfl

@[simp] theorem State.emit_fsm (s : State) (r : Report) : (s.emit r).fsm = s.fsm := rfl
@[simp] theorem State.emit_table (s : State) (r : Report) : (s.emit r).table = s.table := rfl
@[simp] theorem State.emit_buf (s : State) (r : Report) : (s.emit r).buf = s.buf := rfl
@[simp] theorem State.emit_len (s : State) (r : Report) : (s.emit r).len = s.len := rfl
@[simp] theorem State.emit_pendValid (s : State) (r : Report) : (s.emit r).pendValid = s.pendValid := rfl
@[simp] theorem State.emit_pendW (s : State) (r : Report) : (s.emit r).pendW = s.pendW := rfl
@[simp] theorem State.emit_timeMs (s : State) (r : Report) : (s.emit r).timeMs = s.timeMs := rfl
@[simp] theorem State.emit_startMs (s : State) (r : Report) : (s.emit r).startMs = s.startMs := rfl
@[simp] theorem State.emit_lastEdgeMs (s : State) (r : Report) : (s.emit r).lastEdgeMs = s.lastEdgeMs := rfl
@[simp] theorem State.emit_endReason (s : State) (r : Report) : (s.emit r).endReason = s.endReason := rfl
@[simp] theorem State.emit_cmdErr (s : State) (r : Report) : (s.emit r).cmdErr = s.cmdErr := rfl
@[simp] theorem State.emit_dropCount (s : State) (r : Report) : (s.emit r).dropCount = s.dropCount := rfl
@[simp] theorem State.emit_agenda (s : State) (r : Report) : (s.emit r).agenda = s.agenda := rfl
@[simp] theorem State.emit_reports (s : State) (r : Report) : (s.emit r).reports = s.reports ++ [r] := rfl

@[simp] theorem State.reportAndIdle_fsm (s : State) (r : Report) : (s.reportAndIdle r).fsm = .idle := rfl
@[simp] theorem State.reportAndIdle_table (s : State) (r : Report) : (s.reportAndIdle r).table = BucketTable.empty := rfl
@[simp] theorem State.reportAndIdle_buf (s : State) (r : Report) : (s.reportAndIdle r).buf = [] := rfl
@[simp] theorem State.reportAndIdle_len (s : State) (r : Report) : (s.reportAndIdle r).len = 0 := rfl
@[simp] theorem State.reportAndIdle_pendValid (s : State) (r : Report) : (s.reportAndIdle r).pendValid = false := rfl
@[simp] theorem State.reportAndIdle_pendW (s : State) (r : Report) : (s.reportAndIdle r).pendW = 0 := rfl
@[simp] theorem State.reportAndIdle_timeMs (s : State) (r : Report) : (s.reportAndIdle r).timeMs = s.timeMs := rfl
@[simp] theorem State.reportAndIdle_startMs (s : State) (r : Report) : (s.reportAndIdle r).startMs = s.startMs := rfl
@[simp] theorem State.reportAndIdle_lastEdgeMs (s : State) (r : Report) : (s.reportAndIdle r).lastEdgeMs = s.lastEdgeMs := rfl
@[simp] theorem State.reportAndIdle_endReason (s : State) (r : Report) : (s.reportAndIdle r).endReason = s.endReason := rfl
@[simp] theorem State.reportAndIdle_cmdErr (s : State) (r : Report) : (s.reportAndIdle r).cmdErr = s.cmdErr := rfl
@[simp] theorem State.reportAndIdle_dropCount (s : State) (r : Report) : (s.reportAndIdle r).dropCount = s.dropCount := rfl
@[simp] theorem State.reportAndIdle_agenda (s : State) (r : Report) : (s.reportAndIdle r).agenda = s.agenda := rfl
@[simp] theorem State.reportAndIdle_reports (s : State) (r : Report) : (s.reportAndIdle r).reports = s.reports ++ [r] := rfl

@[simp] theorem State.countDrop_fsm (s : State) : s.countDrop.fsm = s.fsm := rfl
@[simp] theorem State.countDrop_table (s : State) : s.countDrop.table = s.table := rfl
@[simp] theorem State.countDrop_buf (s : State) : s.countDrop.buf = s.buf := rfl
@[simp] theorem State.countDrop_len (s : State) : s.countDrop.len = s.len := rfl
@[simp] theorem State.countDrop_pendValid (s : State) : s.countDrop.pendValid = s.pendValid := rfl
@[simp] theorem State.countDrop_pendW (s : State) : s.countDrop.pendW = s.pendW := rfl
@[simp] theorem State.countDrop_timeMs (s : State) : s.countDrop.timeMs = s.timeMs := rfl
@[simp] theorem State.countDrop_startMs (s : State) : s.countDrop.startMs = s.startMs := rfl
@[simp] theorem State.countDrop_lastEdgeMs (s : State) : s.countDrop.lastEdgeMs = s.lastEdgeMs := rfl
@[simp] theorem State.countDrop_endReason (s : State) : s.countDrop.endReason = s.endReason := rfl
@[simp] theorem State.countDrop_cmdErr (s : State) : s.countDrop.cmdErr = s.cmdErr := rfl
@[simp] theorem State.countDrop_dropCount (s : State) : s.countDrop.dropCount = satIncrement s.dropCount := rfl
@[simp] theorem State.countDrop_agenda (s : State) : s.countDrop.agenda = s.agenda := rfl
@[simp] theorem State.countDrop_reports (s : State) : s.countDrop.reports = s.reports := rfl

@[simp] theorem State.setCmdErr_fsm (s : State) : s.setCmdErr.fsm = s.fsm := rfl
@[simp] theorem State.setCmdErr_table (s : State) : s.setCmdErr.table = s.table := rfl
@[simp] theorem State.setCmdErr_buf (s : State) : s.setCmdErr.buf = s.buf := rfl
@[simp] theorem State.setCmdErr_len (s : State) : s.setCmdErr.len = s.len := rfl
@[simp] theorem State.setCmdErr_pendValid (s : State) : s.setCmdErr.pendValid = s.pendValid := rfl
@[simp] theorem State.setCmdErr_pendW (s : State) : s.setCmdErr.pendW = s.pendW := rfl
@[simp] theorem State.setCmdErr_timeMs (s : State) : s.setCmdErr.timeMs = s.timeMs := rfl
@[simp] theorem State.setCmdErr_startMs (s : State) : s.setCmdErr.startMs = s.startMs := rfl
@[simp] theorem State.setCmdErr_lastEdgeMs (s : State) : s.setCmdErr.lastEdgeMs = s.lastEdgeMs := rfl
@[simp] theorem State.setCmdErr_endReason (s : State) : s.setCmdErr.endReason = s.endReason := rfl
@[simp] theorem State.setCmdErr_cmdErr (s : State) : s.setCmdErr.cmdErr = true := rfl
@[simp] theorem State.setCmdErr_dropCount (s : State) : s.setCmdErr.dropCount = s.dropCount := rfl
@[simp] theorem State.setCmdErr_agenda (s : State) : s.setCmdErr.agenda = s.agenda := rfl
@[simp] theorem State.setCmdErr_reports (s : State) : s.setCmdErr.reports = s.reports := rfl

@[simp] theorem sessionStart_fsm (w : Dur) (s : State) : (sessionStart w s).fsm = .capturing := rfl
@[simp] theorem sessionStart_table (w : Dur) (s : State) : (sessionStart w s).table = BucketTable.empty := rfl
@[simp] theorem sessionStart_buf (w : Dur) (s : State) : (sessionStart w s).buf = [] := rfl
@[simp] theorem sessionStart_len (w : Dur) (s : State) : (sessionStart w s).len = 0 := rfl
@[simp] theorem sessionStart_pendValid (w : Dur) (s : State) : (sessionStart w s).pendValid = true := rfl
@[simp] theorem sessionStart_pendW (w : Dur) (s : State) : (sessionStart w s).pendW = w := rfl
@[simp] theorem sessionStart_timeMs (w : Dur) (s : State) : (sessionStart w s).timeMs = s.timeMs := rfl
@[simp] theorem sessionStart_startMs (w : Dur) (s : State) : (sessionStart w s).startMs = s.timeMs := rfl
@[simp] theorem sessionStart_lastEdgeMs (w : Dur) (s : State) : (sessionStart w s).lastEdgeMs = s.timeMs := rfl
@[simp] theorem sessionStart_endReason (w : Dur) (s : State) : (sessionStart w s).endReason = s.endReason := rfl
@[simp] theorem sessionStart_cmdErr (w : Dur) (s : State) : (sessionStart w s).cmdErr = s.cmdErr := rfl
@[simp] theorem sessionStart_dropCount (w : Dur) (s : State) : (sessionStart w s).dropCount = s.dropCount := rfl
@[simp] theorem sessionStart_agenda (w : Dur) (s : State) : (sessionStart w s).agenda = s.agenda := rfl
@[simp] theorem sessionStart_reports (w : Dur) (s : State) : (sessionStart w s).reports = s.reports := rfl

@[simp] theorem resetBlock_fsm (s : State) : (resetBlock s).fsm = State.reset.fsm := rfl
@[simp] theorem resetBlock_table (s : State) : (resetBlock s).table = State.reset.table := rfl
@[simp] theorem resetBlock_buf (s : State) : (resetBlock s).buf = State.reset.buf := rfl
@[simp] theorem resetBlock_len (s : State) : (resetBlock s).len = State.reset.len := rfl
@[simp] theorem resetBlock_pendValid (s : State) : (resetBlock s).pendValid = State.reset.pendValid := rfl
@[simp] theorem resetBlock_pendW (s : State) : (resetBlock s).pendW = State.reset.pendW := rfl
@[simp] theorem resetBlock_timeMs (s : State) : (resetBlock s).timeMs = State.reset.timeMs := rfl
@[simp] theorem resetBlock_startMs (s : State) : (resetBlock s).startMs = State.reset.startMs := rfl
@[simp] theorem resetBlock_lastEdgeMs (s : State) : (resetBlock s).lastEdgeMs = State.reset.lastEdgeMs := rfl
@[simp] theorem resetBlock_endReason (s : State) : (resetBlock s).endReason = State.reset.endReason := rfl
@[simp] theorem resetBlock_cmdErr (s : State) : (resetBlock s).cmdErr = State.reset.cmdErr := rfl
@[simp] theorem resetBlock_dropCount (s : State) : (resetBlock s).dropCount = State.reset.dropCount := rfl
@[simp] theorem resetBlock_agenda (s : State) : (resetBlock s).agenda = s.agenda := rfl
@[simp] theorem resetBlock_reports (s : State) : (resetBlock s).reports = s.reports := rfl

@[simp] theorem offer_fsm (word : CmdWord) (s : State) : (offer word s).fsm = s.fsm := rfl
@[simp] theorem offer_table (word : CmdWord) (s : State) : (offer word s).table = s.table := rfl
@[simp] theorem offer_buf (word : CmdWord) (s : State) : (offer word s).buf = s.buf := rfl
@[simp] theorem offer_len (word : CmdWord) (s : State) : (offer word s).len = s.len := rfl
@[simp] theorem offer_pendValid (word : CmdWord) (s : State) : (offer word s).pendValid = s.pendValid := rfl
@[simp] theorem offer_pendW (word : CmdWord) (s : State) : (offer word s).pendW = s.pendW := rfl
@[simp] theorem offer_timeMs (word : CmdWord) (s : State) : (offer word s).timeMs = s.timeMs := rfl
@[simp] theorem offer_startMs (word : CmdWord) (s : State) : (offer word s).startMs = s.startMs := rfl
@[simp] theorem offer_lastEdgeMs (word : CmdWord) (s : State) : (offer word s).lastEdgeMs = s.lastEdgeMs := rfl
@[simp] theorem offer_endReason (word : CmdWord) (s : State) : (offer word s).endReason = s.endReason := rfl
@[simp] theorem offer_cmdErr (word : CmdWord) (s : State) : (offer word s).cmdErr = s.cmdErr := rfl
@[simp] theorem offer_dropCount (word : CmdWord) (s : State) : (offer word s).dropCount = s.dropCount := rfl
@[simp] theorem offer_agenda (word : CmdWord) (s : State) : (offer word s).agenda = .command word :: s.agenda := rfl
@[simp] theorem offer_reports (word : CmdWord) (s : State) : (offer word s).reports = s.reports := rfl

@[simp] theorem State.briefReport_status (s : State) (status : ReportStatus) : (s.briefReport status).status = status := rfl
@[simp] theorem State.briefReport_endReason (s : State) (status : ReportStatus) : (s.briefReport status).endReason = s.endReason := rfl
@[simp] theorem State.briefReport_halfbits (s : State) (status : ReportStatus) : (s.briefReport status).halfbits = s.len := rfl
@[simp] theorem State.briefReport_startMs (s : State) (status : ReportStatus) : (s.briefReport status).startMs = s.startMs := rfl
@[simp] theorem State.briefReport_lastEdgeMs (s : State) (status : ReportStatus) : (s.briefReport status).lastEdgeMs = s.lastEdgeMs := rfl
@[simp] theorem State.briefReport_analysis (s : State) (status : ReportStatus) : (s.briefReport status).analysis = none := rfl
@[simp] theorem State.briefReport_decoding (s : State) (status : ReportStatus) : (s.briefReport status).decoding = none := rfl

end Sys2Proof.Machine
end

