-- ==== Sys2Proof/Laws/Ops.lean ====
section
/-! SUPPORT. One lemma for each shared operation that says everything it can do: the buffer's primitives, the append,
the end of a session, Normalize and FIN. -/

namespace Sys2Proof.Machine

/-! ### Outcomes -/

@[simp] theorem answer_ok (s : State) : answer (.ok s) = .next s := rfl

@[simp] theorem answer_error (r : Refusal) : answer (.error r) = .refused r := rfl

theorem answer_eq_next {x : Except Refusal State} {t : State} : answer x = .next t ↔ x = .ok t := by
  cases x <;> simp [answer]

/-! ### The buffer's primitives -/

theorem memWrite_eq_ok {p : Params} {k : Nat} {v : Byte} {s t : State} :
    memWrite p k v s = .ok t ↔ k < p.cap ∧ t = { s with buf := Memory.write s.buf k v } := by
  unfold memWrite
  split_ifs with h <;> simp [h, eq_comm]

/-- The stored half-bits are the bytes below `len`. -/
theorem State.stored_eq (s : State) : s.stored = (List.range s.len.toNat).map (Memory.read s.buf) := by
  unfold State.stored
  rw [← List.filterMap_eq_map]
  refine List.filterMap_congr fun k hk => ?_
  simp [State.memRead?, List.mem_range.1 hk]

@[simp] theorem State.stored_length (s : State) : s.stored.length = s.len.toNat := by simp [State.stored_eq]

/-! ### The append -/

theorem appendPair_eq_ok {p : Params} {pulse space : Dur} {s t : State} :
    appendPair p pulse space s = .ok t ↔
      s.len.toNat < p.cap ∧
        t = { s with
          table := (classifyPair p pulse space s.table).2
          buf := Memory.write s.buf s.len.toNat (classifyPair p pulse space s.table).1
          len := s.len + 1 } := by
  unfold appendPair memWrite
  split_ifs with h <;> simp [h, eq_comm]

theorem appendPending_eq_ok {p : Params} {space : Dur} {s t : State} :
    appendPending p space s = .ok t ↔
      s.len.toNat < p.cap ∧
        t = { s with
          table := (classifyPair p s.pendW space s.table).2
          buf := Memory.write s.buf s.len.toNat (classifyPair p s.pendW space s.table).1
          len := s.len + 1
          pendValid := false } := by
  unfold appendPending appendPair memWrite
  split_ifs with h <;> simp [h, eq_comm]

/-- The append keeps the buffer's canonical form. -/
theorem appendPending_buf_wf {p : Params} {space : Dur} {s t : State} (h : appendPending p space s = .ok t)
    (hs : Memory.wf s.buf = true) : Memory.wf t.buf = true := by
  obtain ⟨-, rfl⟩ := appendPending_eq_ok.1 h
  exact Memory.wf_write hs

/-! ### The end of a session -/

/-- The short-burst guard either reports noise and clears the session, or hands it to FIN. -/
theorem guardShort_cases (p : Params) (s : State) :
    s.len.toNat < p.minHalfbits ∧ guardShort p s = s.reportAndIdle (s.briefReport .noiseShort) ∨
      p.minHalfbits ≤ s.len.toNat ∧ guardShort p s = { s with fsm := .finalizing } := by
  unfold guardShort
  split_ifs with h
  · exact .inl ⟨h, rfl⟩
  · exact .inr ⟨not_lt.1 h, rfl⟩

/-- EndSession answers the guard's state, of the session itself or of the session with its pending pulse flushed. -/
theorem endSession_eq_ok {p : Params} {reason : EndReason} {s t : State} :
    endSession p reason s = .ok t ↔
      s.pendValid = false ∧ t = guardShort p { s with endReason := reason } ∨
        s.pendValid = true ∧ ∃ u, appendPending p 0 { s with endReason := reason } = .ok u ∧ t = guardShort p u := by
  unfold endSession
  by_cases hp : s.pendValid = true
  · rw [if_pos hp]
    cases appendPending p 0 { s with endReason := reason } <;> simp [hp, eq_comm]
  · rw [if_neg hp]
    simp [hp, eq_comm]

theorem guardShort_buf_wf {p : Params} {s : State} (hs : Memory.wf s.buf = true) :
    Memory.wf (guardShort p s).buf = true := by
  rcases guardShort_cases p s with ⟨-, h⟩ | ⟨-, h⟩ <;> simp [h, hs]

/-- Ending a session keeps the buffer's canonical form. -/
theorem endSession_buf_wf {p : Params} {reason : EndReason} {s t : State} (h : endSession p reason s = .ok t)
    (hs : Memory.wf s.buf = true) : Memory.wf t.buf = true := by
  rcases endSession_eq_ok.1 h with ⟨-, rfl⟩ | ⟨-, u, hu, rfl⟩
  · exact guardShort_buf_wf hs
  · exact guardShort_buf_wf (appendPending_buf_wf hu hs)

/-! ### Normalize and FIN -/

/-- The remap as plain writes to the buffer, for as many indices as the buffer has. -/
theorem remapBuffer_foldlM {p : Params} {live : List Bucket} (ks : List Nat) (s : State) (h : ∀ k ∈ ks, k < p.cap) :
    ks.foldlM (fun s k => memWrite p k (remapPair live (Memory.read s.buf k)) s) s =
      Except.ok (ε := Refusal)
        { s with buf := ks.foldl (fun m k => Memory.write m k (remapPair live (Memory.read m k))) s.buf } := by
  induction ks generalizing s with
  | nil => rfl
  | cons k ks ih =>
    rw [List.foldlM_cons, memWrite_eq_ok.2 ⟨h k List.mem_cons_self, rfl⟩]
    exact ih _ fun j hj => h j (List.mem_cons_of_mem _ hj)

/-- Normalize of a session that fits the buffer: the sorted table, and the stored pairs remapped. -/
theorem normalize_eq {p : Params} {s : State} (h : s.len.toNat ≤ p.cap) :
    normalize p s = .ok { s with
      table := s.table.sort
      buf := (List.range s.len.toNat).foldl
        (fun m k => Memory.write m k (remapPair s.table.live (Memory.read m k))) s.buf } :=
  remapBuffer_foldlM (List.range s.len.toNat) { s with table := s.table.sort } fun _ hk =>
    (List.mem_range.1 hk).trans_le h

/-- A remap of any indices keeps the buffer's canonical form. -/
theorem remap_buf_wf (live : List Bucket) (ks : List Nat) {m : Memory} (h : Memory.wf m = true) :
    Memory.wf (ks.foldl (fun m k => Memory.write m k (remapPair live (Memory.read m k))) m) = true := by
  induction ks generalizing m with
  | nil => exact h
  | cons k ks ih => exact ih (Memory.wf_write h)

/-- FIN after Normalize answers with one report emitted and the session cleared. -/
theorem finishSession_eq_ok {p : Params} {s t : State} :
    finishSession p s = .ok t ↔
      ∃ pulse space, selectAxis p (axisCounts s.table.live .pulse) = some pulse ∧
        selectAxis p (axisCounts s.table.live .space) = some space ∧
        t = s.reportAndIdle (finReport p s pulse space) := by
  unfold finishSession
  split
  · rename_i pulse space hp hs
    simp only [hp, hs, Except.ok.injEq, Option.some.injEq]
    constructor
    · rintro rfl
      exact ⟨pulse, space, rfl, rfl, rfl⟩
    · rintro ⟨_, _, rfl, rfl, rfl⟩
      rfl
  · rename_i hno
    constructor
    · intro h
      cases h
    · rintro ⟨pulse, space, hp, hs, -⟩
      exact (hno pulse space hp hs).elim

theorem finalize_eq_ok {p : Params} {s t : State} :
    finalize p s = .ok t ↔ ∃ u, normalize p s = .ok u ∧ finishSession p u = .ok t := by
  unfold finalize
  cases normalize p s <;> simp

/-- FIN leaves the empty buffer. -/
theorem finalize_buf {p : Params} {s t : State} (h : finalize p s = .ok t) : t.buf = [] := by
  obtain ⟨u, -, hu⟩ := finalize_eq_ok.1 h
  obtain ⟨_, _, -, -, rfl⟩ := finishSession_eq_ok.1 hu
  rfl

end Sys2Proof.Machine
end

