-- ==== Sys2Proof/Laws/Exec.lean ====
section
/-! SUPPORT. Each command's meaning in each state of the session controller (45_capture_buffer_controller
R184-R188), and the parameters that have a value. -/

namespace Sys2Proof.Machine

@[simp] theorem configured_cap : configured.cap = 512 := rfl
@[simp] theorem configured_minHalfbits : configured.minHalfbits = 64 := rfl
@[simp] theorem configured_noiseMsgLen : configured.noiseMsgLen = 64 := rfl
@[simp] theorem configured_noiseMinRepeats : configured.noiseMinRepeats = 2 := rfl
@[simp] theorem configured_maxSpans : configured.maxSpans = 8 := rfl
@[simp] theorem configured_modRatio : configured.modRatio = 2 := rfl
@[simp] theorem configured_collapseDiv : configured.collapseDiv = 8 := rfl
@[simp] theorem configured_nearRule : configured.nearRule = .span := rfl
@[simp] theorem configured_tol : configured.tol = tolTable := rfl

theorem edge_of_idle {p : Params} {l : Bool} {w : Dur} {s : State} (h : s.fsm = .idle) :
    edge p l w s = .next (edgeIdle p l w s) := by simp [edge, h]

theorem edge_of_capturing {p : Params} {l : Bool} {w : Dur} {s : State} (h : s.fsm = .capturing) :
    edge p l w s = answer (edgeCapturing p w { s with lastEdgeMs := s.timeMs }) := by simp [edge, h]

theorem edge_of_finalizing {p : Params} {l : Bool} {w : Dur} {s : State} (h : s.fsm = .finalizing) :
    edge p l w s = .next s.countDrop := by simp [edge, h]

theorem footer_of_idle {p : Params} {s : State} (h : s.fsm = .idle) : footer p s = .next s := by simp [footer, h]

theorem footer_of_capturing {p : Params} {s : State} (h : s.fsm = .capturing) :
    footer p s = answer (endSession p .footer { s with lastEdgeMs := s.timeMs }) := by simp [footer, h]

theorem footer_of_finalizing {p : Params} {s : State} (h : s.fsm = .finalizing) :
    footer p s = .next s.countDrop := by simp [footer, h]

/-- An odd edge appends, and then ends the session if that filled the buffer. -/
theorem edgeSpace_eq_ok {p : Params} {w : Dur} {s t : State} :
    edgeSpace p w s = .ok t ↔
      ∃ u, appendPending p w s = .ok u ∧
        (u.len.toNat = p.cap ∧ endSession p .bufferFull u = .ok t ∨ u.len.toNat ≠ p.cap ∧ t = u) := by
  unfold edgeSpace
  cases appendPending p w s with
  | error r => simp
  | ok u =>
    by_cases h : u.len.toNat = p.cap
    · simp [h]
    · simp [h, eq_comm (a := t)]

/-- The three things an edge in CAPTURING can do. -/
theorem edgeCapturing_eq_ok {p : Params} {w : Dur} {s t : State} :
    edgeCapturing p w s = .ok t ↔
      p.timeoutCeiling < w.toNat ∧ endSession p .ceiling s = .ok t ∨
      w.toNat ≤ p.timeoutCeiling ∧ s.pendValid = true ∧ edgeSpace p w s = .ok t ∨
      w.toNat ≤ p.timeoutCeiling ∧ s.pendValid = false ∧ t = { s with pendW := w, pendValid := true } := by
  unfold edgeCapturing
  by_cases hw : p.timeoutCeiling < w.toNat
  · simp [hw]
  · by_cases hp : s.pendValid = true
    · simp [hw, hp, not_lt.1 hw]
    · simp [hw, hp, not_lt.1 hw, eq_comm]

end Sys2Proof.Machine
end

