-- ==== Sys2Proof/Laws/PerInstr.lean ====
section
/-! SUPPORT. Per-command facts about the syntax: the encoder gives every command the CMD field of its format
(30_encoding R71). -/

namespace Sys2Proof.Laws.Format

/-- The CMD field of a command's format (R71). -/
def cmdOf : Instr → BitVec 2
  | .footer _ _ _ _ => 0
  | .edge _ _ _ _ => 0
  | .tick _ => 1
  | .reset => 2
  | .reservedR _ => 2
  | .reserved _ => 3

/-- The word of a command has the CMD field of its format. -/
def Statement (i : Instr) : Prop := cmdField (encode i) = cmdOf i

theorem cmdField_encodeLow (c : BitVec 2) (x : BitVec 30) : cmdField (encodeLow c x) = c := by
  apply BitVec.eq_of_getLsbD_eq
  intro k hk
  have h : 30 + k < 32 := by omega
  simp [cmdField, encodeLow, hk, h]

theorem cmdField_encodeE (l q : Bool) (v : BitVec 8) (w : Dur) : cmdField (encodeE l q v w) = 0 := by
  apply BitVec.eq_of_getLsbD_eq
  intro k hk
  have hw : w.getLsbD (30 + k) = false := BitVec.getLsbD_of_ge _ _ (by omega)
  have hv : v.getLsbD (30 + k - 20) = false := BitVec.getLsbD_of_ge _ _ (by omega)
  have hq : (BitVec.ofBool q).getLsbD (30 + k - 28) = false := BitVec.getLsbD_of_ge _ _ (by omega)
  have hl : (BitVec.ofBool l).getLsbD (30 + k - 29) = false := BitVec.getLsbD_of_ge _ _ (by omega)
  simp only [cmdField, encodeE, BitVec.getLsbD_extractLsb', BitVec.getLsbD_or, BitVec.getLsbD_shiftLeft,
    BitVec.getLsbD_setWidth, hw, hv, hq, hl]
  simp

theorem footer (l q : Bool) (v : BitVec 8) (b : Bool) : Statement (.footer l q v b) := cmdField_encodeE l q v _
theorem edge (l q : Bool) (v : BitVec 8) (w : Dur) : Statement (.edge l q v w) := cmdField_encodeE l q v w
theorem tick (now : TimeMs) : Statement (.tick now) := cmdField_encodeLow 1 now
theorem reset : Statement .reset := by
  unfold Statement
  decide
theorem reservedR (x : BitVec 30) : Statement (.reservedR x) := cmdField_encodeLow 2 x
theorem reserved (x : BitVec 30) : Statement (.reserved x) := cmdField_encodeLow 3 x

end Sys2Proof.Laws.Format
end

