-- ==== Sys2Proof/Machine/Assembler.lean ====
section
/-! DEFINITION. The spec's command syntax and its pseudo-commands as data, and the words they stand for
(30_encoding R83, R84). Reading them from text is formatting. -/

namespace Sys2Proof.Machine

/-- One line of a program. -/
inductive AsmLine where
  /-- `EDGE <w>, <L>`; with `some v`, `EDGE <w>, <L>, q=<v>`. -/
  | edge (w : Dur) (level : Bool) (q : Option (BitVec 8))
  /-- `FOOTER` and `FOOTER 0` with false, `FOOTER 1` with true. -/
  | footer (w : Bool)
  /-- `TICK <t>`. -/
  | tick (t : TimeMs)
  /-- `RESET`. -/
  | reset
  /-- `.word <v>`. -/
  | word (v : CmdWord)
  /-- `PULSE <w>`. -/
  | pulse (w : Dur)
  /-- `SPACE <w>`. -/
  | space (w : Dur)
  /-- `PAIR <p>, <s>`. -/
  | pair (p s : Dur)
  /-- `REPEAT <k>` of a block of lines. -/
  | repeated (k : Nat) (lines : List AsmLine)
  deriving Repr

/-- The word of `EDGE` (R83): Q says whether a quality byte is given. -/
def edgeWord (w : Dur) (level : Bool) : Option (BitVec 8) → CmdWord
  | some v => encode (.edge level true v w)
  | none => encode (.edge level false 0 w)

mutual
/-- The words of one line, in order (R83, R84). -/
def assembleLine : AsmLine → List CmdWord
  | .edge w level q => [edgeWord w level q]
  | .footer w => [encode (.footer false false 0 w)]
  | .tick t => [encode (.tick t)]
  | .reset => [encode .reset]
  | .word v => [v]
  | .pulse w => [edgeWord w true none]
  | .space w => [edgeWord w false none]
  | .pair p s => [edgeWord p true none, edgeWord s false none]
  | .repeated k lines => (List.replicate k (assemble lines)).flatten
/-- The words of a program. -/
def assemble : List AsmLine → List CmdWord
  | [] => []
  | line :: rest => assembleLine line ++ assemble rest
end

/-- The operand range of an edge: anything smaller is a footer marker (R73, R83). -/
def edgeWidthOk (w : Dur) : Bool := decide (Config.footerMax < w.toNat)

mutual
/-- Whether the operands of a line are in the ranges of R83. -/
def lineOk : AsmLine → Bool
  | .edge w _ _ => edgeWidthOk w
  | .footer _ => true
  | .tick _ => true
  | .reset => true
  | .word _ => true
  | .pulse w => edgeWidthOk w
  | .space w => edgeWidthOk w
  | .pair p s => edgeWidthOk p && edgeWidthOk s
  | .repeated _ lines => linesOk lines
/-- Whether every line of a program is. -/
def linesOk : List AsmLine → Bool
  | [] => true
  | line :: rest => lineOk line && linesOk rest
end

end Sys2Proof.Machine
end

