-- ==== Sys2Proof/Tests/Reference.lean ====
section
/-! SUPPORT. The machine under any parameters, so that it can be run with the reference configuration of
95_test_vectors, whose values the OPEN parameters of the block itself do not have (log entry 4). With the block's own
parameters it is the machine. -/

namespace Sys2Proof.Tests

open Sys2Proof.Machine

/-- The reference configuration of 95_test_vectors. -/
def refParams : Params :=
  { configured with debounceFloor := 100, timeoutCeiling := 20000, sessionTimeoutMs := 1000, msgLenMargin := 2 }

/-- The reference configuration with the other reading of the near test (vector V7). -/
def edgeParams : Params := { refParams with nearRule := .edge }

/-- A command under any parameters. -/
def execWith (p : Params) (i : Instr) (s : State) : Host.Outcome State Fault Refusal :=
  match i with
  | .footer _ _ _ _ => footer p s
  | .edge level _ _ width => edge p level width s
  | .tick now => .next (tick p now s)
  | .reset => .next (resetBlock s)
  | .reservedR _ => .next s.setCmdErr
  | .reserved _ => .next s.setCmdErr

/-- A turn of the finalize engine under any parameters. -/
def engineTurnWith (p : Params) (s : State) : Host.Outcome State Fault Refusal :=
  let t := { s with agenda := s.agenda.tail }
  match s.fsm with
  | .finalizing => answer (finalize p t)
  | .idle => .next t
  | .capturing => .next t

/-- A step under any parameters. -/
def stepWith (p : Params) (s : State) : Host.Outcome State Fault Refusal :=
  match fetch s with
  | some (i, t) => execWith p i t
  | none => engineTurnWith p s

/-- With the block's own parameters the commands are `exec`'s. -/
theorem execWith_configured (i : Instr) (s : State) : execWith configured i s = exec i s := by
  cases i <;> rfl

/-- With the block's own parameters the step is the machine's. -/
theorem stepWith_configured (s : State) : stepWith configured s = step s := by
  unfold stepWith step
  cases fetch s with
  | none => rfl
  | some x => exact execWith_configured x.1 x.2

end Sys2Proof.Tests
end

