-- ==== Sys2Proof/Tests/Slice0.lean ====
section
/-! SUPPORT. Tests whose expected results stand in the spec (30_encoding, 95_test_vectors), and for each statement
with hypotheses a witness that meets them. -/

namespace Sys2Proof.Tests

open Sys2Proof.Machine

/-! ### Small states -/

/-- A table of the given buckets. -/
def tableOf (buckets : List Bucket) : BucketTable := buckets.foldl BucketTable.allocate BucketTable.empty

/-- A buffer of the given bytes. -/
def bufOf (bytes : List Byte) : Memory := bytes.zipIdx.foldl (fun m x => Memory.write m x.2 x.1) []

/-- A session in CAPTURING. -/
def session (buckets : List Bucket) (len : Len10) (pend : Option Dur) : State :=
  { State.reset with
    fsm := .capturing, table := tableOf buckets, len := len, pendValid := pend.isSome, pendW := pend.getD 0 }

/-- The bucket of vectors V2 to V9. -/
def b300 : Bucket := ⟨300, 300, 1, 0, 1⟩

/-- A session of 64 half-bits `0x00` that waits for FIN. -/
def waiting : State := { session [⟨300, 300, 64, 64, 128⟩] 64 none with fsm := .finalizing }

/-- A session of 65 half-bits `0x00` that waits for FIN, one message too long to be noise. -/
def waitingOk : State := { session [⟨300, 300, 65, 65, 130⟩] 65 none with fsm := .finalizing }

/-- The state of a completed step; the reset state for one that stopped. -/
def after (o : Host.Outcome State Fault Refusal) : State :=
  match o with
  | .next s => s
  | .fault _ => State.reset
  | .refused _ => State.reset

/-- What a table's real buckets hold. -/
def result (x : Nibble × BucketTable) : Nat × List Bucket := (x.1.toNat, x.2.live)

/-! ### WellFormed -/

theorem test_edge_of_footer_width_ill_formed : (Instr.edge true false 0 1).wellFormed = false := by decide
theorem test_edge_of_width_two_well_formed : (Instr.edge true false 0 2).wellFormed = true := by decide
theorem test_reserved_reset_ill_formed : (Instr.reservedR 0).wellFormed = false := by decide
theorem test_reserved_one_well_formed : (Instr.reservedR 1).wellFormed = true := by decide
theorem test_asm_edge_of_footer_width : lineOk (.pulse 1) = false := by decide

/-! ### Decoding: words written out bit by bit from 30_encoding R72-R77 -/

theorem test_decode_edge : decode 0b00100000000000000000000100101100 = .edge true false 0 300 := by decide
theorem test_decode_edge_quality : decode 0b00011010101100000000000100101100 = .edge false true 0xAB 300 := by decide
theorem test_decode_edge_two : decode 0b00000000000000000000000000000010 = .edge false false 0 2 := by decide
theorem test_decode_footer : decode 0b00000000000000000000000000000000 = .footer false false 0 false := by decide
theorem test_decode_footer_one : decode 0b00110000001100000000000000000001 = .footer true true 3 true := by decide
theorem test_decode_tick : decode 0b01000000000000000000001111110011 = .tick 1011 := by decide
theorem test_decode_reset : decode 0b10000000000000000000000000000000 = .reset := by decide
theorem test_decode_reserved_r : decode 0b10000000000000000000000000000001 = .reservedR 1 := by decide
theorem test_decode_reserved : decode 0b11000000000000000000000000000000 = .reserved 0 := by decide
theorem test_encode_edge_quality : encode (.edge false true 0xAB 300) = 0x1AB0012C := by decide
theorem test_table_word : decodeTableWord 32 0x400003F3 = some (.tick 1011) := by decide
theorem test_table_word_longer : decodeTableWord 40 0 = none := by decide
theorem test_asm_pair_repeated :
    assemble [.repeated 2 [.pair 300 900], .tick 5] =
      [0x2000012C, 0x00000384, 0x2000012C, 0x00000384, 0x40000005] := by decide

/-! ### Bucket table (95_test_vectors 2.1) -/

theorem test_v6_span : result (classifyWidth refParams 700 .space (tableOf [⟨300, 600, 1, 1, 2⟩])) =
    (1, [⟨300, 600, 1, 1, 2⟩, ⟨700, 700, 0, 1, 1⟩]) := by decide
theorem test_v7_edge : result (classifyWidth edgeParams 700 .space (tableOf [⟨300, 600, 1, 1, 2⟩])) =
    (0, [⟨300, 700, 1, 2, 3⟩]) := by decide
theorem test_v8_closest : result (classifyWidth refParams 480 .space (tableOf [b300, ⟨600, 600, 0, 1, 1⟩])) =
    (1, [b300, ⟨480, 600, 0, 2, 2⟩]) := by decide
theorem test_v9_tie : result (classifyWidth refParams 500 .pulse (tableOf [b300, ⟨700, 700, 0, 1, 1⟩])) =
    (0, [⟨300, 500, 2, 0, 2⟩, ⟨700, 700, 0, 1, 1⟩]) := by decide
theorem test_v17_flush_pair : (classifyPair refParams 300 0 BucketTable.empty).1 = 0x0F := by decide
theorem test_s1_bands :
    [499, 500, 999, 1000, 1999, 2000, 4999, 5000, 0xFFFFF].map configured.tol =
      [400, 200, 200, 400, 400, 600, 600, 1000, 1000] := by decide

/-! ### Sorter, gap detector, decoder (95_test_vectors 2.2 to 2.4) -/

/-- The session of vector N2 before Normalize. -/
def n2 : State :=
  { session [⟨900, 900, 0, 1, 1⟩, b300, ⟨6000, 6000, 0, 1, 1⟩] 4 none with buf := bufOf [0x10, 0x12, 0xF0, 0x2F] }

theorem test_n2 : (after (answer (normalize refParams n2))).stored = [0x01, 0x02, 0xF1, 0x2F] ∧
    (after (answer (normalize refParams n2))).table.live =
      [b300, ⟨900, 900, 0, 1, 1⟩, ⟨6000, 6000, 0, 1, 1⟩] := by decide
theorem test_a4 : selectAxis refParams [10, 50, 10, 30] = some ⟨1, 3, 10, 30, false⟩ := by decide
theorem test_a5 : selectAxis refParams [50, 20, 20] = some ⟨0, 0, 20, 70, true⟩ := by decide
theorem test_g7 : segment refParams 1 0 [0x02, 0x02, 0x00, 0x00, 0x00, 0x02] = ⟨0, 3, 1, [⟨2, 5, 3⟩]⟩ := by decide
theorem test_g8 : segment refParams 1 0 [0x20, 0x00, 0x00, 0x20, 0x00, 0x00] =
    ⟨2, 2, 2, [⟨1, 3, 2⟩, ⟨4, 5, 2⟩]⟩ := by decide

/-- The table T3 of 2.4. -/
def t3 : List Bucket := [⟨300, 300, 0, 0, 0⟩, ⟨900, 900, 0, 0, 0⟩, ⟨6000, 6000, 0, 0, 0⟩]

/-- Thresholds with the given short and long index. -/
def axisOf (short long : Nibble) : AxisThresholds := ⟨short, long, 0, 0, decide (short = long)⟩

theorem test_m3_classify : classify refParams t3 (axisOf 0 1) (axisOf 0 1) = ⟨true, true, .manchester, 600, 600⟩ := by
  decide
theorem test_m3_stream :
    decodeStream t3 ⟨true, true, .manchester, 600, 600⟩ 1 1 [0x01, 0x10, 0x01, 0x2F] =
      [.byte 0x19 6, .mark 3 2 15 6000 0] := by decide

/-! ### Commands (95_test_vectors 2.5) -/

theorem test_k5_below_ceiling : (after (edge refParams true 19999 State.reset)).pendW = 19999 := by decide
theorem test_k9_short_footer :
    (after (footer refParams (session [b300] 50 (some 300)))).reports.map (fun r => (r.status, r.halfbits)) =
      [(.noiseShort, 51)] := by decide
theorem test_k10_footer : (after (footer refParams (session [b300] 64 none))).fsm = .finalizing := by decide
theorem test_k14_full : (after (edge refParams false 300 (session [b300] 511 (some 300)))).endReason = .bufferFull := by
  decide
theorem test_k16_saturated : satIncrement 0xFFFFFFFF = 0xFFFFFFFF := by decide
theorem test_k18_watchdog :
    (tick refParams 1011 { session [b300] 3 none with lastEdgeMs := 10 }).reports.map
      (fun r => (r.status, r.endReason, r.halfbits)) = [(.abandoned, .watchdog, 3)] := by decide
theorem test_k19_wrap : (tick refParams 500 { session [b300] 3 none with lastEdgeMs := 0x3FFFFF9C }).fsm = .capturing := by
  decide
theorem test_k22_reset : execReset { session [b300] 3 none with cmdErr := true } = .next State.reset := by rfl
theorem test_k23_reserved : (after (execReserved 0 (session [b300] 3 none))).cmdErr = true := by decide
theorem test_k24_reserved_r : (after (execReservedR 1 waiting)).dropCount = 0 := by decide
theorem test_fin_noise :
    (after (answer (finalize refParams { n2 with fsm := .finalizing }))).reports.map (fun r => r.status) =
      [.noiseNoRepeat] := by decide

/-! ### Witnesses: for each statement with hypotheses, what meets them -/

theorem disjoint_of_two : (tableOf [⟨900, 900, 0, 1, 1⟩, b300]).Disjoint where
  count_le := by decide
  ordered := by decide
  apart := by decide

theorem waiting_inv : waiting.Inv where
  table := { count_le := by decide, ordered := by decide, apart := by decide }
  widths := by decide
  pending := by decide
  combined := by decide
  counts := fun a => by cases a <;> decide
  buf_wf := rfl
  buf_within := by decide
  fields := fun k _ => by
    have h : Memory.read waiting.buf k = 0x00 := rfl
    rw [h]
    exact ⟨.inl (by decide), .inl (by decide)⟩
  len_le := by decide
  idle := fun h => nomatch h
  capturing := fun h => nomatch h
  finalizing := fun _ => by decide

theorem waitingOk_inv : waitingOk.Inv where
  table := { count_le := by decide, ordered := by decide, apart := by decide }
  widths := by decide
  pending := by decide
  combined := by decide
  counts := fun a => by cases a <;> decide
  buf_wf := rfl
  buf_within := by decide
  fields := fun k _ => by
    have h : Memory.read waitingOk.buf k = 0x00 := rfl
    rw [h]
    exact ⟨.inl (by decide), .inl (by decide)⟩
  len_le := by decide
  idle := fun h => nomatch h
  capturing := fun h => nomatch h
  finalizing := fun _ => by decide

theorem witness_decode_of_encode :
    (Instr.footer true true 255 true).wellFormed = true ∧ (Instr.edge true true 255 0xFFFFF).wellFormed = true ∧
      (Instr.reservedR 0x3FFFFFFF).wellFormed = true := by decide

theorem witness_contained :
    (300 : Dur) ≠ 0 ∧ (tableOf [b300]).live[0]? = some b300 ∧ b300.min ≤ 300 ∧ 300 ≤ b300.max ∧
      ∀ j c, j < 0 → (tableOf [b300]).live[j]? = some c → ¬ (c.min ≤ 300 ∧ 300 ≤ c.max) :=
  ⟨by decide, by decide, by decide, by decide, fun _ _ h => absurd h (Nat.not_lt_zero _)⟩

theorem witness_near : b300.min ≤ b300.max ∧ nearDistance .span 400 310 b300 = some 10 ∧
    nearDistance .edge 400 290 b300 = some 10 := by decide

/-- Vector V9: two candidates at equal distance, of which the lower index wins. -/
theorem witness_nearest :
    let t := tableOf [b300, ⟨700, 700, 0, 1, 1⟩]
    (500 : Dur) ≠ 0 ∧ (∀ c ∈ t.live, ¬ (c.min ≤ 500 ∧ 500 ≤ c.max)) ∧ t.live[0]? = some b300 ∧
      nearDistance refParams.nearRule (refParams.tol 500).toNat 500 b300 = some 200 ∧
      ∀ j c e, t.live[j]? = some c → nearDistance refParams.nearRule (refParams.tol 500).toNat 500 c = some e →
        200 < e ∨ 200 = e ∧ 0 ≤ j := by
  refine ⟨by decide, by decide, by decide, by decide, fun j c e hc he => ?_⟩
  have hmem := List.mem_of_getElem? hc
  have hlive : (tableOf [b300, ⟨700, 700, 0, 1, 1⟩]).live = [b300, ⟨700, 700, 0, 1, 1⟩] := by decide
  simp only [hlive, List.mem_cons, List.not_mem_nil, or_false] at hmem
  have h1 : nearDistance refParams.nearRule (refParams.tol 500).toNat 500 b300 = some 200 := by decide
  have h2 : nearDistance refParams.nearRule (refParams.tol 500).toNat 500 ⟨700, 700, 0, 1, 1⟩ = some 200 := by decide
  rcases hmem with rfl | rfl
  · rw [h1] at he
    exact .inr ⟨Option.some.inj he, Nat.zero_le _⟩
  · rw [h2] at he
    exact .inr ⟨Option.some.inj he, Nat.zero_le _⟩

/-- Vector V5: nothing contains 700 and nothing is near. -/
theorem witness_unmatched :
    (700 : Dur) ≠ 0 ∧ (∀ c ∈ (tableOf [b300]).live, ¬ (c.min ≤ 700 ∧ 700 ≤ c.max)) ∧
      (∀ c ∈ (tableOf [b300]).live, nearDistance refParams.nearRule (refParams.tol 700).toNat 700 c = none) ∧
      (tableOf [b300]).n.toNat < 8 := by decide

/-- The table of vector V12. -/
def v12 : BucketTable :=
  tableOf ([300, 900, 1500, 2500, 4000, 6000, 9000, 13000].map fun w => ⟨w, w, 1, 0, 1⟩)

theorem witness_full :
    (∀ c ∈ v12.live, ¬ (c.min ≤ 17000 ∧ 17000 ≤ c.max)) ∧
      (∀ c ∈ v12.live, nearDistance refParams.nearRule (refParams.tol 17000).toNat 17000 c = none) ∧
      v12.n.toNat = 8 := by decide

theorem witness_disjoint_unsorted :
    (tableOf [⟨900, 900, 0, 1, 1⟩, b300]).Disjoint ∧
      (0 : Nibble).toNat < (tableOf [⟨900, 900, 0, 1, 1⟩, b300]).n.toNat ∧
      (tableOf [⟨900, 900, 0, 1, 1⟩, b300]).n.toNat ≤ (2 : Nibble).toNat :=
  ⟨disjoint_of_two, by decide, by decide⟩

theorem witness_normalize : n2.len.toNat ≤ 512 ∧ Memory.wf n2.buf = true ∧ 3 < n2.len.toNat ∧ n2.len.toNat ≤ 4 := by
  decide

theorem witness_normalize_idempotent :
    ∃ s t : State, s.table.Disjoint ∧ Memory.wf s.buf = true ∧ normalize configured s = .ok t :=
  ⟨{ session [⟨900, 900, 0, 1, 1⟩, b300] 2 none with buf := bufOf [0x10, 0x1F] }, _, disjoint_of_two, by decide,
    normalize_eq (by decide)⟩

/-- The counts of vector A4: the highest is at 1, the second-highest at 3, the rest is at most 10. -/
theorem witness_select_axis :
    IsTop [10, 50, 10, 30] (fun _ => False) 1 50 ∧ IsTop [10, 50, 10, 30] (fun k => k = 1) 3 30 ∧
      IsGap [10, 50, 10, 30] 1 3 10 := by
  have hcount : ∀ j c, ([10, 50, 10, 30] : List Nat)[j]? = some c →
      j = 0 ∧ c = 10 ∨ j = 1 ∧ c = 50 ∨ j = 2 ∧ c = 10 ∨ j = 3 ∧ c = 30 := by
    intro j c h
    match j with
    | 0 | 1 | 2 | 3 => simp_all
    | j + 4 => simp at h
  refine ⟨⟨rfl, by simp, ?_, ?_⟩, ⟨rfl, by decide, ?_, ?_⟩, ⟨?_, .inr ⟨0, by decide, by decide, rfl⟩⟩⟩
  · intro j c h _; have := hcount j c h; omega
  · intro j hj h; have := hcount j _ h; omega
  · intro j c h hj; have := hcount j c h; omega
  · intro j hj h; have := hcount j _ h; omega
  · intro j c h h1 h3; have := hcount j c h; omega

theorem witness_axis_ordered :
    ([10, 50, 10, 30] : List Nat).length ≤ 8 ∧ selectAxis refParams [10, 50, 10, 30] = some ⟨1, 3, 10, 30, false⟩ ∧
      selectAxis refParams [50, 20, 20] = some ⟨0, 0, 20, 70, true⟩ := by decide

theorem witness_break :
    (7 : Nibble).toNat ≤ 7 ∧ (hi 0xF0 = 15) ∧ (lo 0x0F = 15) := by decide

theorem witness_unbroken : [0x00, 0x10] ≠ ([] : List Byte) ∧ ([0x00, 0x10] : List Byte).length ≤ 1023 ∧
    ∀ np ∈ ([0x00, 0x10] : List Byte), isBreak 1 0 np = false := by decide

/-- Three bursts of four half-bits, their last gap there or cut off. -/
theorem witness_three_bursts :
    2 ≤ 4 ∧ ([0x00, 0x10, 0x00] : List Byte).length = 4 - 1 ∧
      (∀ np ∈ ([0x00, 0x10, 0x00] : List Byte), isBreak 1 0 np = false) ∧ isBreak 1 0 0x12 = true ∧
      (([0x00, 0x10, 0x00] : List Byte) ++ 0x12 :: [0x00, 0x10, 0x00] ++ 0x12 :: [0x00, 0x10, 0x00] ++
        [0x12]).length ≤ 1023 := by
  decide

/-- The longest three bursts that fill the buffer of 512, the last gap cut off: `L = 171`. -/
theorem witness_three_bursts_full :
    (List.replicate 170 (0x00 : Byte)).length = 171 - 1 ∧
      (∀ np ∈ List.replicate 170 (0x00 : Byte), isBreak 1 0 np = false) ∧
      (List.replicate 170 (0x00 : Byte) ++ 0x12 :: List.replicate 170 0x00 ++ 0x12 :: List.replicate 170 0x00 ++
        []).length = 512 := by
  refine ⟨List.length_replicate, fun np h => ?_, ?_⟩
  · rw [(List.mem_replicate.1 h).2]
    decide
  · simp only [List.length_append, List.length_cons, List.length_replicate, List.length_nil]

theorem witness_midpoint : waiting.Inv ∧ ⟨300, 300, 64, 64, 128⟩ ∈ waiting.table.live := ⟨waiting_inv, by decide⟩

theorem witness_classify :
    t3[(axisOf 0 1).short.toNat]? = some ⟨300, 300, 0, 0, 0⟩ ∧ t3[(axisOf 0 1).long.toNat]? = some ⟨900, 900, 0, 0, 0⟩ ∧
      t3[(axisOf 0 0).short.toNat]? = some ⟨300, 300, 0, 0, 0⟩ ∧
      t3[(axisOf 0 0).long.toNat]? = some ⟨300, 300, 0, 0, 0⟩ := by decide

theorem witness_stream :
    (modulationOf true false ≠ .unknown) ∧ (modulationOf false false = .unknown) ∧
      StreamItem.byte 0x19 6 ∈ decodeStream t3 ⟨true, true, .manchester, 600, 600⟩ 1 1 [0x01, 0x10, 0x01, 0x2F] := by
  decide

/-- Vector M7: a full BYTE, then a partial one before its MARK. -/
theorem witness_stream_bytes :
    (decodeStream t3 ⟨true, false, .pwm, 600, 300⟩ 1 0 [0x10, 0x10, 0x10, 0x10, 0x10, 0x10, 0x10, 0x10, 0x00, 0x12])
      = [.byte 0xFF 8, .byte 0x00 1, .mark 9 1 2 900 6000] := by decide

/-- EndSession with a pending pulse, where the guard fires (51 half-bits) and where it does not (64, 512). -/
theorem witness_end_session :
    Memory.wf (session [b300] 50 (some 300)).buf = true ∧ (session [b300] 50 (some 300)).len.toNat < 512 ∧
      (session [b300] 50 (some 300)).endHalfbits < 64 ∧ ¬ (session [b300] 63 (some 300)).endHalfbits < 64 ∧
      (session [b300] 511 (some 300)).len.toNat < 512 := by decide

theorem witness_states :
    State.reset.fsm = .idle ∧ (session [b300] 3 none).fsm = .capturing ∧ waiting.fsm = .finalizing := by decide

/-- The narrowest edge is never above the ceiling, the saturated one always is (R76). -/
theorem witness_ceiling :
    (2 : Dur).toNat ≤ configured.timeoutCeiling ∧ configured.timeoutCeiling < (0xFFFFF : Dur).toNat := by
  have h : configured.timeoutCeiling = 2 + Config.freeCeiling % (2 ^ 20 - 3) := rfl
  have := Nat.mod_lt Config.freeCeiling (show 0 < 2 ^ 20 - 3 by decide)
  rw [h]
  constructor
  · exact Nat.le_add_right 2 _
  · have : (0xFFFFF : Dur).toNat = 0xFFFFF := by decide
    omega

theorem witness_even_edge :
    (session [b300] 3 none).fsm = .capturing ∧ (session [b300] 3 none).pendValid = false ∧
      (2 : Dur).toNat ≤ configured.timeoutCeiling := ⟨rfl, rfl, witness_ceiling.1⟩

/-- An append in the middle of the buffer and the one that fills it. -/
theorem witness_odd_edge :
    (session [b300] 511 (some 300)).fsm = .capturing ∧ (session [b300] 511 (some 300)).pendValid = true ∧
      (session [b300] 511 (some 300)).len.toNat = 511 ∧ (session [b300] 10 (some 300)).len.toNat < 511 ∧
      Memory.wf (session [b300] 511 (some 300)).buf = true ∧ (2 : Dur).toNat ≤ configured.timeoutCeiling :=
  ⟨rfl, rfl, by decide, by decide, rfl, witness_ceiling.1⟩

theorem witness_ceiling_edge :
    (session [b300] 70 (some 300)).fsm = .capturing ∧ configured.timeoutCeiling < (0xFFFFF : Dur).toNat ∧
      (session [b300] 70 (some 300)).len.toNat < 512 ∧ Memory.wf (session [b300] 70 (some 300)).buf = true :=
  ⟨rfl, witness_ceiling.2, by decide, rfl⟩

theorem witness_fin :
    waiting.Inv ∧ waiting.fsm = .finalizing ∧ (∀ word rest, waiting.agenda ≠ .command word :: rest) ∧
      ∀ word rest, ({ waiting with agenda := [.finalize, .command 0] } : State).agenda ≠ .command word :: rest :=
  ⟨waiting_inv, rfl, by rintro _ _ ⟨⟩, by rintro _ _ ⟨⟩⟩

/-- FIN of the waiting session: the step, the report it adds and the report's analysis. -/
theorem witness_fin_report :
    ∃ t r a, step waiting = .next t ∧ t.reports = waiting.reports ++ [r] ∧ r.analysis = some a ∧
      a.buffer[63]? = some 0x00 := by
  refine ⟨_, _, _, rfl, rfl, rfl, ?_⟩
  decide

/-- FIN of the session of 65 half-bits, whose report is OK. -/
theorem witness_fin_report_ok :
    waitingOk.Inv ∧ waitingOk.fsm = .finalizing ∧ (∀ word rest, waitingOk.agenda ≠ .command word :: rest) ∧
      ∃ t r a, step waitingOk = .next t ∧ t.reports = waitingOk.reports ++ [r] ∧ r.analysis = some a ∧
        r.status = .ok :=
  ⟨waitingOk_inv, rfl, by rintro _ _ ⟨⟩, _, _, _, rfl, rfl, rfl, rfl⟩

theorem witness_step_command :
    ({ State.reset with agenda := [.command 0x80000000] } : State).agenda = .command 0x80000000 :: [] ∧
      (0x80000000 : Nat) < 2 ^ 32 := by decide

theorem witness_engine_idles :
    State.reset.fsm ≠ .finalizing ∧ (∀ word rest, State.reset.agenda ≠ .command word :: rest) ∧
      ∀ word rest, ({ State.reset with agenda := [.finalize] } : State).agenda ≠ .command word :: rest :=
  ⟨by decide, by rintro _ _ ⟨⟩, by rintro _ _ ⟨⟩⟩

theorem witness_step_keeps : ∃ s t : State, s.Inv ∧ step s = .next t := ⟨waiting, _, waiting_inv, rfl⟩

theorem witness_counters : waiting.Inv ∧ ⟨300, 300, 64, 64, 128⟩ ∈ waiting.table.live := ⟨waiting_inv, by decide⟩

/-- A step that adds a report and one that adds none. -/
theorem witness_reports :
    (∃ t, step waiting = .next t ∧ t.reports.length = 1) ∧ ∃ t, step State.reset = .next t ∧ t.reports = [] :=
  ⟨⟨_, rfl, rfl⟩, ⟨_, rfl, rfl⟩⟩

/-- A FOOTER that takes a session of 64 half-bits to FINALIZING. -/
theorem witness_finalizing_entered :
    ∃ t, exec (.footer false false 0 false) (session [b300] 64 none) = .next t ∧
      (session [b300] 64 none).fsm ≠ .finalizing ∧ t.fsm = .finalizing := ⟨_, rfl, by decide, by decide⟩

/-- An EDGE, and a TICK that moves the time, in FINALIZING. -/
theorem witness_finalizing_commands :
    (∃ t, exec (.edge true false 0 300) waiting = .next t ∧ waiting.fsm = .finalizing) ∧
      ∃ t, exec (.tick 7) waiting = .next t ∧ t.timeMs ≠ waiting.timeMs :=
  ⟨⟨_, rfl, rfl⟩, ⟨_, rfl, by decide⟩⟩

/-- A FOOTER and a level-0 EDGE in IDLE, neither RESET nor an edge that could start a session. -/
theorem witness_idle_commands :
    (∃ t, exec (.footer false false 0 false) State.reset = .next t) ∧
      ∃ t, exec (.edge false false 0 300) State.reset = .next t ∧
        ∀ q v w, Instr.edge false false 0 300 = .edge true q v w →
          ¬ (configured.debounceFloor < w.toNat ∧ w.toNat < configured.timeoutCeiling) :=
  ⟨⟨_, rfl⟩, ⟨_, rfl, fun _ _ _ h => by simp at h⟩⟩

/-- A reserved word, and a command after one. -/
theorem witness_command_error :
    (∃ t, exec (.reserved 0) State.reset = .next t ∧ t.cmdErr = true ∧ Instr.reserved 0 ≠ .reset) ∧
      ∃ t, exec (.tick 1) { State.reset with cmdErr := true } = .next t ∧ t.cmdErr = true :=
  ⟨⟨_, rfl, rfl, by decide⟩, ⟨_, rfl, rfl⟩⟩

/-- A FOOTER in IDLE and a TICK in FINALIZING. -/
theorem witness_time :
    (∃ t, exec (.footer false false 0 false) State.reset = .next t ∧
      ∀ now, Instr.footer false false 0 false ≠ .tick now) ∧
      ∃ t, exec (.tick 3) waiting = .next t ∧ waiting.fsm ≠ .idle :=
  ⟨⟨_, rfl, fun _ h => by simp at h⟩, ⟨_, rfl, by decide⟩⟩

/-- Outside IDLE the level of an EDGE is not read. -/
theorem witness_level_ignored : waiting.fsm ≠ .idle ∧ (session [b300] 3 none).fsm ≠ .idle := by decide

theorem witness_interface : ∃ t, exec .reset waiting = .next t := ⟨_, rfl⟩

end Sys2Proof.Tests
end

section
/-! The obligations on reset and on SessionClear (10_state R39, R40), from what a cleared table reads as. -/

namespace Sys2Proof.Machine

@[simp] theorem BucketTable.empty_n : BucketTable.empty.n = 0 := rfl

/-- In the empty table every index, inside the bucket space or not, reads as a cleared bucket. -/
@[simp] theorem BucketTable.entry_empty (i : Nat) : BucketTable.empty.entry i = Bucket.zero := by
  rw [BucketTable.entry, BucketTable.empty, Vector.toList_replicate, List.getD_eq_getElem?_getD,
    List.getElem?_getD_replicate_default_eq]

theorem exec_reset (s : State) : exec .reset s = .next (resetBlock s) := rfl

/-- The reset block is at reset whatever the agenda and the reports that it keeps. -/
theorem resetBlock_atReset (s : State) : (resetBlock s).AtReset where
  fsm := resetBlock_fsm s
  n := BucketTable.empty_n
  entries := BucketTable.entry_empty
  buf := Memory.read_empty
  len := resetBlock_len s
  pendValid := resetBlock_pendValid s
  pendW := resetBlock_pendW s
  timeMs := resetBlock_timeMs s
  startMs := resetBlock_startMs s
  lastEdgeMs := resetBlock_lastEdgeMs s
  endReason := rfl
  cmdErr := resetBlock_cmdErr s
  dropCount := resetBlock_dropCount s

/-- Resetting changes nothing after power-on. -/
theorem resetBlock_reset : resetBlock State.reset = State.reset := rfl

theorem State.reset_atReset : State.reset.AtReset := resetBlock_reset ▸ resetBlock_atReset State.reset

/-- Settles O8: RESET answers with the reset block, and power-on is the reset block of itself. -/
theorem resetValues : Obligations.ResetValues :=
  ⟨State.reset_atReset, fun s => ⟨resetBlock s, exec_reset s, resetBlock_atReset s⟩⟩

/-- Settles O10: the cleared table and buffer read as zero everywhere; the rest is SessionClear's effect on each
field. -/
theorem sessionClearResult : Obligations.SessionClearResult := by
  intro s
  have hn : s.sessionClear.table.n = 0 := by rw [State.sessionClear_table, BucketTable.empty_n]
  have hentry (i : Nat) : s.sessionClear.table.entry i = ⟨0, 0, 0, 0, 0⟩ := by
    rw [State.sessionClear_table, BucketTable.entry_empty, Bucket.zero]
  have hread (k : Nat) : Memory.read s.sessionClear.buf k = 0x00 := by
    rw [State.sessionClear_buf, Memory.read_empty]
  exact ⟨hn, hentry, hread, by simp⟩

end Sys2Proof.Machine
end

section
/-! The obligations on command words (30_encoding R70-R77): the fields of a word as numbers, then one inversion lemma
for the decoder, from which the ranges and the operands are read off. -/

namespace Sys2Proof

/-! ### The fields of a word, as numbers -/

theorem cmdField_toNat (word : CmdWord) : (cmdField word).toNat = word.toNat / 2 ^ 30 := by
  have := word.isLt
  rw [cmdField, BitVec.extractLsb'_toNat, Nat.shiftRight_eq_div_pow]
  omega

@[simp] theorem lowField_toNat (word : CmdWord) : (lowField word).toNat = word.toNat % 2 ^ 30 :=
  BitVec.extractLsb'_toNat 0 30 word

@[simp] theorem widthField_toNat (word : CmdWord) : (widthField word).toNat = word.toNat % 2 ^ 20 :=
  BitVec.extractLsb'_toNat 0 20 word

@[simp] theorem qualField_toNat (word : CmdWord) : (qualField word).toNat = word.toNat / 2 ^ 20 % 2 ^ 8 := by
  rw [qualField, BitVec.extractLsb'_toNat, Nat.shiftRight_eq_div_pow]

/-- A CMD value takes the quarter of the words that begin with it (R71). -/
theorem cmdField_eq_iff (word : CmdWord) (cmd : BitVec 2) :
    cmdField word = cmd ↔ cmd.toNat * 2 ^ 30 ≤ word.toNat ∧ word.toNat < (cmd.toNat + 1) * 2 ^ 30 := by
  rw [← BitVec.toNat_inj, cmdField_toNat]
  omega

theorem lowField_eq_zero_iff (word : CmdWord) : lowField word = 0 ↔ word.toNat % 2 ^ 30 = 0 := by
  rw [← BitVec.toNat_inj, lowField_toNat]
  rfl

/-- `word[19:1] = 0` is `W ≤ FOOTER_MAX` (R73). -/
theorem footerBits_eq_zero_iff (word : CmdWord) : word.extractLsb' 1 19 = 0 ↔ word.toNat % 2 ^ 20 ≤ 1 := by
  rw [← BitVec.toNat_inj, BitVec.extractLsb'_toNat, Nat.shiftRight_eq_div_pow]
  change word.toNat / 2 ^ 1 % 2 ^ 19 = 0 ↔ _
  omega

/-! ### The decoder -/

/-- The rows of the command table (R71-R77): the range of words that each one takes, and the command it reads from such
a word. -/
inductive CommandRow (word : CmdWord) : Instr → Prop where
  | footer (hcmd : word.toNat < 2 ^ 30) (hwidth : word.toNat % 2 ^ 20 ≤ 1) :
      CommandRow word (.footer (word.getLsbD 29) (word.getLsbD 28) (qualField word) (word.getLsbD 0))
  | edge (hcmd : word.toNat < 2 ^ 30) (hwidth : 1 < word.toNat % 2 ^ 20) :
      CommandRow word (.edge (word.getLsbD 29) (word.getLsbD 28) (qualField word) (widthField word))
  | tick (hfrom : 2 ^ 30 ≤ word.toNat) (hto : word.toNat < 2 ^ 31) : CommandRow word (.tick (lowField word))
  | reset (hword : word.toNat = 2 ^ 31) : CommandRow word .reset
  | reservedR (hfrom : 2 ^ 31 < word.toNat) (hto : word.toNat < 3 * 2 ^ 30) :
      CommandRow word (.reservedR (lowField word))
  | reserved (hfrom : 3 * 2 ^ 30 ≤ word.toNat) : CommandRow word (.reserved (lowField word))

theorem decodeE_row {word : CmdWord} (hcmd : word.toNat < 2 ^ 30) : CommandRow word (decodeE word) := by
  rw [decodeE]
  split_ifs with hbits <;> rw [footerBits_eq_zero_iff] at hbits
  · exact .footer hcmd hbits
  · exact .edge hcmd (by omega)

theorem decodeR_row {word : CmdWord} (hfrom : 2 ^ 31 ≤ word.toNat) (hto : word.toNat < 3 * 2 ^ 30) :
    CommandRow word (decodeR word) := by
  rw [decodeR]
  split_ifs with hlow <;> rw [lowField_eq_zero_iff] at hlow
  · exact .reset (by omega)
  · exact .reservedR (by omega) hto

/-- Every word is decoded by the row whose range it is in (R81). -/
theorem decode_row (word : CmdWord) : CommandRow word (decode word) := by
  have := word.isLt
  rw [decode]
  split_ifs with hE hT hR <;> simp only [cmdField_eq_iff, BitVec.ofNat_eq_ofNat, BitVec.toNat_ofNat] at *
  · exact decodeE_row (by omega)
  · exact .tick (by omega) (by omega)
  · exact decodeR_row (by omega) (by omega)
  · exact .reserved (by omega)

theorem CommandRow.of_decode {word : CmdWord} {i : Instr} (h : decode word = i) : CommandRow word i :=
  h ▸ decode_row word

/-- Settles O5: the six ranges are disjoint, so the row that a word is decoded by is the only one it is in. -/
theorem commandRanges : Obligations.CommandRanges := by
  intro word
  have hrow := decode_row word
  generalize decode word = i at hrow
  -- In each row `simp` says which command was read, and `omega` that the word is in no other row's range.
  cases hrow <;> simp <;> omega

end Sys2Proof

namespace Sys2Proof.Machine

theorem timeoutCeiling_le : timeoutCeiling ≤ 2 ^ 20 - 2 := by
  have := Nat.mod_lt Config.freeCeiling (show 0 < 2 ^ 20 - 3 by decide)
  rw [timeoutCeiling]
  omega

/-- Settles O6: the decoder's rows name the fields, and a field's value is a part of the word's. -/
theorem operandsAreFields : Obligations.OperandsAreFields := by
  refine ⟨fun word l q v w h => ?edge, fun word l q v b h => ?footer, fun word t h => ?tick, ?ceiling⟩
  case edge =>
    cases CommandRow.of_decode h
    exact ⟨widthField_toNat word, rfl, rfl, qualField_toNat word⟩
  case footer =>
    cases CommandRow.of_decode h
    exact ⟨rfl, rfl, rfl, qualField_toNat word⟩
  case tick =>
    cases CommandRow.of_decode h
    exact lowField_toNat word
  case ceiling => exact timeoutCeiling_le.trans_lt (by decide)

end Sys2Proof.Machine
end

section
/-! The obligation on nibble pairs (30_encoding R78). -/

namespace Sys2Proof.Machine

@[simp] theorem hi_toNat (np : Byte) : (hi np).toNat = np.toNat / 16 := by
  have := np.isLt
  rw [hi, BitVec.extractLsb'_toNat, Nat.shiftRight_eq_div_pow]
  omega

@[simp] theorem lo_toNat (np : Byte) : (lo np).toNat = np.toNat % 16 := BitVec.extractLsb'_toNat 0 4 np

/-- The two nibbles share no bit, so joining them is adding them. -/
@[simp] theorem pack_toNat (p s : Nibble) : (pack p s).toNat = p.toNat * 16 + s.toNat := by
  have hs : s.toNat < 2 ^ 4 := s.isLt
  have hp := p.isLt
  rw [pack, BitVec.toNat_or, BitVec.toNat_shiftLeft, BitVec.toNat_setWidth_of_le (by decide),
    BitVec.toNat_setWidth_of_le (by decide), Nat.mod_eq_of_lt (by omega), ← Nat.shiftLeft_add_eq_or_of_lt hs,
    Nat.shiftLeft_eq]

@[simp] theorem hi_pack (p s : Nibble) : hi (pack p s) = p := by
  apply BitVec.eq_of_toNat_eq
  rw [hi_toNat, pack_toNat]
  omega

@[simp] theorem lo_pack (p s : Nibble) : lo (pack p s) = s := by
  apply BitVec.eq_of_toNat_eq
  rw [lo_toNat, pack_toNat]
  omega

/-- Settles O7: the two fields of a packed byte are its quotient and remainder by 16. -/
theorem nibblePairPacking : Obligations.NibblePairPacking :=
  ⟨fun p s => ⟨pack_toNat p s, hi_pack p s, lo_pack p s⟩, fun np => ⟨hi_toNat np, lo_toNat np⟩⟩

end Sys2Proof.Machine
end

section
/-! The obligations on the tolerance and on the near candidates (41_bucket_table_classifier R90, R92): what
`nearDistance` answers below, above and inside a bucket's range. -/

namespace Sys2Proof.Machine

/-- Settles O11: in its own band a width fails the test of every lower band. -/
theorem toleranceBands : Obligations.ToleranceBands := by
  intro w
  rw [configured_tol]
  refine ⟨fun hto => ?_, fun hfrom hto => ?_, fun hfrom hto => ?_, fun hfrom hto => ?_, fun hfrom => ?_⟩
  · exact if_pos hto
  · rw [tolTable, if_neg (by omega), if_pos hto]
  · rw [tolTable, if_neg (by omega), if_neg (by omega), if_pos hto]
  · rw [tolTable, if_neg (by omega), if_neg (by omega), if_neg (by omega), if_pos hto]
  · rw [tolTable, if_neg (by omega), if_neg (by omega), if_neg (by omega), if_neg (by omega)]

/-- The reach that a near rule holds against the tolerance: to the far end of a range under SPAN, to its near end under
EDGE (R92). -/
def nearReach (rule : NearRule) (far near : Nat) : Nat :=
  match rule with
  | .span => far
  | .edge => near

section
variable {rule : NearRule} {tol w : Nat} {b : Bucket}

theorem nearDistance_below (hmin : w < b.min.toNat) :
    nearDistance rule tol w b =
      if nearReach rule (b.max.toNat - w) (b.min.toNat - w) ≤ tol then some (b.min.toNat - w) else none :=
  if_pos hmin

theorem nearDistance_above (hmin : b.min.toNat ≤ w) (hmax : b.max.toNat < w) :
    nearDistance rule tol w b =
      if nearReach rule (w - b.min.toNat) (w - b.max.toNat) ≤ tol then some (w - b.max.toNat) else none :=
  (if_neg hmin.not_gt).trans (if_pos hmax)

theorem nearDistance_inside (hmin : b.min.toNat ≤ w) (hmax : w ≤ b.max.toNat) : nearDistance rule tol w b = none :=
  (if_neg hmin.not_gt).trans (if_neg hmax.not_gt)

/-- The near candidates and their distances, under either rule (R92). -/
theorem nearDistance_eq_some {d : Nat} :
    nearDistance rule tol w b = some d ↔
      (w < b.min.toNat ∧ nearReach rule (b.max.toNat - w) (b.min.toNat - w) ≤ tol ∧ d = b.min.toNat - w) ∨
      (b.min.toNat ≤ w ∧ b.max.toNat < w ∧ nearReach rule (w - b.min.toNat) (w - b.max.toNat) ≤ tol ∧
        d = w - b.max.toNat) := by
  by_cases hmin : w < b.min.toNat
  · simp [nearDistance_below hmin, hmin, hmin.not_ge, eq_comm]
  rw [not_lt] at hmin
  by_cases hmax : b.max.toNat < w
  · simp [nearDistance_above hmin hmax, hmin, hmax, hmin.not_gt, eq_comm]
  · simp [nearDistance_inside hmin (not_lt.1 hmax), hmax, hmin.not_gt]

end

/-- Settles O12: SPAN tests the distance to the far end of the range, and in an ordered range the near end is no
farther. -/
theorem nearCandidates : Obligations.NearCandidates := by
  intro tol w d b
  refine ⟨nearDistance_eq_some, nearDistance_eq_some, fun hord hnear => ?_⟩
  rw [BitVec.le_def] at hord
  obtain ⟨_, hreach, rfl⟩ | ⟨_, _, hreach, rfl⟩ := nearDistance_eq_some.1 hnear
  · exact (Nat.sub_le_sub_right hord w).trans hreach
  · exact (Nat.sub_le_sub_left hord w).trans hreach

end Sys2Proof.Machine
end

section
/-! The scan for the nearest candidate (41_bucket_table_classifier R93): what it finds, and that only one answer is
right. -/

namespace Sys2Proof.Machine

/-- The answer of the scan over a list of buckets: nothing where no bucket has a distance, else the index and the
distance of a nearest bucket, the lowest index among equals (R93). -/
inductive NearestAmong (distance : Bucket → Option Nat) (bs : List Bucket) : Option (Nat × Nat) → Prop where
  | absent (hnone : ∀ c ∈ bs, distance c = none) : NearestAmong distance bs none
  | found {i d : Nat} {b : Bucket} (here : bs[i]? = some b) (dist : distance b = some d)
      (nearest : ∀ j c e, bs[j]? = some c → distance c = some e → d < e ∨ d = e ∧ i ≤ j) :
      NearestAmong distance bs (some (i, d))

section
variable {distance : Bucket → Option Nat} {bs : List Bucket}

theorem NearestAmong.unique {x y : Option (Nat × Nat)} (hx : NearestAmong distance bs x)
    (hy : NearestAmong distance bs y) : x = y := by
  cases hx with
  | absent hnone =>
    cases hy with
    | absent => rfl
    | found here dist => exact absurd dist (by simp [hnone _ (List.mem_of_getElem? here)])
  | @found i d b here dist nearest =>
    cases hy with
    | absent hnone => exact absurd dist (by simp [hnone _ (List.mem_of_getElem? here)])
    | @found j e c here' dist' nearest' =>
      have hij := nearest j c e here' dist'
      have hji := nearest' i b d here dist
      simp only [Option.some.injEq, Prod.mk.injEq]
      omega

/-- What holds of the candidates of a list and of the bucket after them holds of the candidates of both. -/
theorem forall_candidate_concat {b : Bucket} {P : Nat → Nat → Prop}
    (hbefore : ∀ j c e, bs[j]? = some c → distance c = some e → P j e)
    (hlast : ∀ e, distance b = some e → P bs.length e) :
    ∀ j c e, (bs ++ [b])[j]? = some c → distance c = some e → P j e := by
  intro j c e hc he
  obtain hc | ⟨rfl, rfl⟩ : bs[j]? = some c ∨ j = bs.length ∧ b = c := by grind
  · exact hbefore j c e hc he
  · exact hlast e he

/-- One step of the scan: the best so far, compared with the next bucket. -/
theorem NearestAmong.concat {best : Option (Nat × Nat)} (hbest : NearestAmong distance bs best) (b : Bucket) :
    NearestAmong distance (bs ++ [b]) (closer best bs.length (distance b)) := by
  have hlast : (bs ++ [b])[bs.length]? = some b := List.getElem?_concat_length
  cases hbest with
  | absent hnone =>
    cases hb : distance b with
    | none => exact .absent (by simpa [or_imp, forall_and, hb] using hnone)
    | some d =>
      refine .found hlast hb (forall_candidate_concat (fun j c e hc he => ?_) fun e he => ?_)
      · simp [hnone c (List.mem_of_getElem? hc)] at he
      · exact .inr ⟨by simpa [hb] using he, le_rfl⟩
  | @found i d a here dist nearest =>
    have hi : i < bs.length := (List.getElem?_eq_some_iff.1 here).1
    have hstay : (bs ++ [b])[i]? = some a := (List.getElem?_append_left hi).trans here
    cases hb : distance b with
    | none => exact .found hstay dist (forall_candidate_concat nearest (by simp [hb]))
    | some d' =>
      rw [closer]
      split_ifs with hlt
      · refine .found hlast hb (forall_candidate_concat (fun j c e hc he => ?_) fun e he => ?_)
        · have := nearest j c e hc he
          omega
        · exact .inr ⟨by simpa [hb] using he, le_rfl⟩
      · refine .found hstay dist (forall_candidate_concat nearest fun e he => ?_)
        rw [hb, Option.some.injEq] at he
        omega

/-- The scan from an index on completes the answer over the buckets before it. -/
theorem nearestFrom_nearestAmong (rest : List Bucket) {best : Option (Nat × Nat)}
    (hbest : NearestAmong distance bs best) :
    NearestAmong distance (bs ++ rest) (nearestFrom distance bs.length best rest) := by
  induction rest generalizing bs best with
  | nil => simpa [nearestFrom] using hbest
  | cons b rest ih => simpa [nearestFrom] using ih (hbest.concat b)

end

/-- The scan finds the nearest of the real buckets (R93). -/
theorem nearest_nearestAmong (p : Params) (w : Dur) (live : List Bucket) :
    NearestAmong (nearDistance p.nearRule (p.tol w).toNat w.toNat) live (nearest p w live) :=
  nearestFrom_nearestAmong (bs := []) live (.absent (by simp))

theorem nearest_eq_iff {p : Params} {w : Dur} {live : List Bucket} {x : Option (Nat × Nat)} :
    nearest p w live = x ↔ NearestAmong (nearDistance p.nearRule (p.tol w).toNat w.toNat) live x :=
  ⟨fun h => h ▸ nearest_nearestAmong p w live, (nearest_nearestAmong p w live).unique⟩

end Sys2Proof.Machine
end

section
/-! The obligations on ClassifyWidth (41_bucket_table_classifier R91-R98): an equation for each of its outcomes, and
what a modification and an allocation do to the entries. -/

namespace Sys2Proof.Machine

/-! ### The entries of a table after a write -/

theorem BucketTable.lt_of_live {t : BucketTable} {i : Nat} {b : Bucket} (h : t.live[i]? = some b) :
    i < Config.maxBuckets := by
  have hi := (List.getElem?_eq_some_iff.1 h).1
  simp only [BucketTable.live, List.length_take, Vector.length_toList] at hi
  omega

theorem BucketTable.entry_setIfInBounds {t : BucketTable} {n : BitVec 4} {i : Nat} {b : Bucket}
    (hi : i < Config.maxBuckets) (j : Nat) :
    BucketTable.entry { n := n, entries := t.entries.setIfInBounds i b } j = if i = j then b else t.entry j := by
  simp only [BucketTable.entry, Vector.toList_setIfInBounds, List.getD_eq_getElem?_getD, List.getElem?_set,
    Vector.length_toList, hi, if_true]
  split_ifs <;> rfl

theorem BucketTable.entry_modify {t : BucketTable} {i : Nat} (hi : i < Config.maxBuckets) (f : Bucket → Bucket)
    (j : Nat) : (t.modify i f).entry j = if i = j then f (t.entry i) else t.entry j :=
  BucketTable.entry_setIfInBounds hi j

theorem BucketTable.entry_allocate {t : BucketTable} (h : t.n.toNat < Config.maxBuckets) (b : Bucket) (j : Nat) :
    (t.allocate b).entry j = if t.n.toNat = j then b else t.entry j :=
  BucketTable.entry_setIfInBounds h j

/-- What the modification of a real bucket does: that entry is changed, `n` and the other entries stay. -/
theorem BucketTable.modify_live {t : BucketTable} {i : Nat} {b : Bucket} (hb : t.live[i]? = some b)
    (f : Bucket → Bucket) :
    (t.modify i f).n = t.n ∧ (t.modify i f).entry i = f b ∧ ∀ j, j ≠ i → (t.modify i f).entry j = t.entry j := by
  have hi := BucketTable.lt_of_live hb
  refine ⟨rfl, ?_, fun j hj => ?_⟩
  · rw [BucketTable.entry_modify hi, if_pos rfl, BucketTable.entry_of_live hb]
  · rw [BucketTable.entry_modify hi, if_neg hj.symm]

/-! ### The fields of a bucket after a hit -/

theorem Bucket.countHit_eq (b : Bucket) (axis : Axis) :
    b.countHit axis = { b with
      pcnt := if axis = .pulse then b.pcnt + 1 else b.pcnt
      scnt := if axis = .space then b.scnt + 1 else b.scnt
      ccnt := b.ccnt + 1 } := by
  cases axis <;> rfl

theorem Bucket.widen_eq (w : Dur) (b : Bucket) :
    b.widen w = { b with
      min := if w < b.min then w else b.min
      max := if w < b.min then b.max else w } := by
  rw [Bucket.widen]
  split_ifs <;> rfl

theorem Bucket.single_eq (w : Dur) (axis : Axis) :
    Bucket.single w axis = ⟨w, w, if axis = .pulse then 1 else 0, if axis = .space then 1 else 0, 1⟩ := by
  cases axis <;> rfl

/-! ### The outcomes of ClassifyWidth -/

theorem findIdx?_contains_eq_none {w : Dur} {bs : List Bucket} :
    bs.findIdx? (Bucket.contains w) = none ↔ ∀ c ∈ bs, ¬ (c.min ≤ w ∧ w ≤ c.max) := by
  simp only [List.findIdx?_eq_none_iff, ← Bucket.contains_iff, Bool.not_eq_true]

theorem findIdx?_contains_eq_some {w : Dur} {bs : List Bucket} {i : Nat} {b : Bucket} (hb : bs[i]? = some b)
    (hmin : b.min ≤ w) (hmax : w ≤ b.max)
    (hfirst : ∀ j c, j < i → bs[j]? = some c → ¬ (c.min ≤ w ∧ w ≤ c.max)) :
    bs.findIdx? (Bucket.contains w) = some i := by
  obtain ⟨hi, rfl⟩ := List.getElem?_eq_some_iff.1 hb
  refine List.findIdx?_eq_some_iff_getElem.2 ⟨hi, Bucket.contains_iff.2 ⟨hmin, hmax⟩, fun j hj => ?_⟩
  rw [Bucket.contains_iff]
  exact hfirst j _ hj (List.getElem?_eq_getElem _)

section
variable {p : Params} {w : Dur} {axis : Axis} {t : BucketTable}

theorem classifyWidth_contained {i : Nat} (hw : w ≠ 0) (hin : t.live.findIdx? (Bucket.contains w) = some i) :
    classifyWidth p w axis t = (BitVec.ofNat 4 i, t.modify i fun b => b.countHit axis) := by
  rw [classifyWidth, if_neg hw, hin]

theorem classifyWidth_near {i d : Nat} (hw : w ≠ 0) (hout : t.live.findIdx? (Bucket.contains w) = none)
    (hnear : nearest p w t.live = some (i, d)) :
    classifyWidth p w axis t = (BitVec.ofNat 4 i, t.modify i fun b => (b.widen w).countHit axis) := by
  rw [classifyWidth, if_neg hw, hout, hnear]

theorem classifyWidth_unmatched (hw : w ≠ 0) (hout : t.live.findIdx? (Bucket.contains w) = none)
    (hnear : nearest p w t.live = none) :
    classifyWidth p w axis t =
      if t.n.toNat < Config.maxBuckets then (t.n, t.allocate (Bucket.single w axis)) else (Config.sentinel, t) := by
  rw [classifyWidth, if_neg hw, hout, hnear]

end

/-- Settles O14: the scan stops at the first bucket that contains the width, and that bucket is counted. -/
theorem containedWidthIsCounted : Obligations.ContainedWidthIsCounted := by
  intro p w axis t i b hw hb hmin hmax hfirst
  obtain ⟨hn, hsame, hother⟩ := BucketTable.modify_live hb fun b => b.countHit axis
  exact ⟨_, classifyWidth_contained hw (findIdx?_contains_eq_some hb hmin hmax hfirst), hn,
    hsame.trans (Bucket.countHit_eq b axis), hother⟩

/-- Settles O15: the hypotheses say what the scan's answer must be, and the scan has no other; the bucket it names is
widened and counted. -/
theorem nearestCandidateIsWidened : Obligations.NearestCandidateIsWidened := by
  intro p w axis t i d b hw hout hb hd hclosest
  obtain ⟨hn, hsame, hother⟩ := BucketTable.modify_live hb fun b => (b.widen w).countHit axis
  refine ⟨_, classifyWidth_near hw (findIdx?_contains_eq_none.2 hout) (nearest_eq_iff.2 (.found hb hd hclosest)), hn,
    ?_, hother⟩
  rw [hsame, Bucket.countHit_eq, Bucket.widen_eq]

/-- Settles O16: the scans find nothing, and there is room for the new bucket at index `n`. -/
theorem unmatchedWidthAllocates : Obligations.UnmatchedWidthAllocates := by
  intro p w axis t hw hout hfar hroom
  refine ⟨t.allocate (Bucket.single w axis), ?_, t.allocate_n _, ?_, fun j hj => ?_⟩
  · rw [classifyWidth_unmatched hw (findIdx?_contains_eq_none.2 hout) (nearest_eq_iff.2 (.absent hfar)), if_pos hroom]
  · rw [BucketTable.entry_allocate hroom, if_pos rfl, Bucket.single_eq]
  · rw [BucketTable.entry_allocate hroom, if_neg hj.symm]

/-- Settles O17: a zero width gets the sentinel on any table, any other one finds neither a bucket nor room. -/
theorem fullTableOverflows : Obligations.FullTableOverflows := by
  intro p w axis t hout hfar hfull
  by_cases hw : w = 0
  · exact if_pos hw
  · rw [classifyWidth_unmatched hw (findIdx?_contains_eq_none.2 hout) (nearest_eq_iff.2 (.absent hfar)),
      if_neg (by simp [hfull])]

end Sys2Proof.Machine
end

section
/-! The obligation on the thresholds of an axis (43_gap_detector_freq_stats R136-R138): the ranking of a list of
counts with their indices, and SelectAxis from its two winners. -/

namespace Sys2Proof.Machine

/-! ### The ranking -/

theorem topRank_mem {ranked : List (Nat × Nat)} {x : Nat × Nat} (h : topRank ranked = some x) : x ∈ ranked := by
  induction ranked with
  | nil => simp [topRank] at h
  | cons z rest ih =>
    cases htop : topRank rest with
    | none => simp_all [topRank]
    | some y =>
      rw [topRank, htop] at h
      dsimp only at h
      split_ifs at h with hlt
      · exact List.mem_cons_of_mem z (ih (htop.trans h))
      · simp_all

/-- In a list ordered by index, the pair that no other outranks is the one found. -/
theorem topRank_eq_some {ranked : List (Nat × Nat)} {x : Nat × Nat}
    (hsorted : ranked.Pairwise fun y z => y.2 < z.2) (hx : x ∈ ranked)
    (htop : ∀ y ∈ ranked, y.1 < x.1 ∨ y.1 = x.1 ∧ x.2 ≤ y.2) : topRank ranked = some x := by
  induction ranked with
  | nil => cases hx
  | cons z rest ih =>
    obtain ⟨hz, hrest⟩ := List.pairwise_cons.1 hsorted
    obtain ⟨htopz, htoprest⟩ := List.forall_mem_cons.1 htop
    obtain rfl | hx := List.mem_cons.1 hx
    · cases hy : topRank rest with
      | none => rw [topRank, hy]
      | some y =>
        have := htoprest y (topRank_mem hy)
        rw [topRank, hy]
        exact if_neg (by omega)
    · have := hz x hx
      rw [topRank, ih hrest hx htoprest]
      exact if_pos (by omega)

theorem pairwise_zipIdx_lt (counts : List Nat) : counts.zipIdx.Pairwise fun x y => x.2 < y.2 := by
  rw [← List.pairwise_map (f := Prod.snd) (R := (· < ·)), List.zipIdx_map_snd]
  exact List.pairwise_lt_range'

@[simp] theorem mem_besides {i : Nat} {ranked : List (Nat × Nat)} {x : Nat × Nat} :
    x ∈ besides i ranked ↔ x ∈ ranked ∧ x.2 ≠ i := by simp [besides]

theorem pairwise_besides {i : Nat} {ranked : List (Nat × Nat)} (h : ranked.Pairwise fun x y => x.2 < y.2) :
    (besides i ranked).Pairwise fun x y => x.2 < y.2 := h.filter _

theorem foldl_max_le_iff {ranked : List (Nat × Nat)} {start m : Nat} :
    ranked.foldl (fun m x => max m x.1) start ≤ m ↔ start ≤ m ∧ ∀ x ∈ ranked, x.1 ≤ m := by
  induction ranked generalizing start with
  | nil => simp
  | cons x rest ih => rw [List.foldl_cons, ih, max_le_iff, List.forall_mem_cons, and_assoc]

theorem countGapMax_le_iff {ranked : List (Nat × Nat)} {m : Nat} :
    countGapMax ranked ≤ m ↔ ∀ x ∈ ranked, x.1 ≤ m :=
  foldl_max_le_iff.trans (and_iff_right (Nat.zero_le m))

/-! ### The two winners and the highest of the rest -/

/-- The scan of the pairs that are not skipped finds the top. -/
theorem IsTop.topRank_eq {counts : List Nat} {skip : Nat → Prop} {i a : Nat} {ranked : List (Nat × Nat)}
    (h : IsTop counts skip i a) (hsorted : ranked.Pairwise fun x y => x.2 < y.2)
    (hranked : ∀ c j, (c, j) ∈ ranked ↔ counts[j]? = some c ∧ ¬ skip j) : topRank ranked = some (a, i) := by
  refine topRank_eq_some hsorted ((hranked a i).2 ⟨h.here, h.allowed⟩) fun (c, j) hy => ?_
  obtain ⟨hc, hskip⟩ := (hranked c j).1 hy
  obtain hlt | rfl := (h.highest j c hc hskip).lt_or_eq
  · exact .inl hlt
  · exact .inr ⟨rfl, not_lt.1 fun hji => hskip (h.lowest j hji hc)⟩

theorem IsGap.countGapMax_eq {counts : List Nat} {i j gap : Nat} (h : IsGap counts i j gap) :
    countGapMax (besides j (besides i counts.zipIdx)) = gap := by
  have hmem : ∀ {c k}, (c, k) ∈ besides j (besides i counts.zipIdx) ↔ (counts[k]? = some c ∧ k ≠ i) ∧ k ≠ j := by
    simp [List.mk_mem_zipIdx_iff_getElem?]
  apply le_antisymm
  · refine countGapMax_le_iff.2 fun (c, k) hx => ?_
    obtain ⟨⟨hc, hi⟩, hj⟩ := hmem.1 hx
    exact h.bound k c hc hi hj
  · obtain rfl | ⟨k, hi, hj, hk⟩ := h.reached
    · exact Nat.zero_le _
    · exact countGapMax_le_iff.1 le_rfl _ (hmem.2 ⟨⟨hk, hi⟩, hj⟩)

/-- SelectAxis once the ranking is known (R138). -/
theorem selectAxis_of_ranks {p : Params} {counts : List Nat} {i a j b gap : Nat}
    (htop : topRank counts.zipIdx = some (a, i)) (hsecond : topRank (besides i counts.zipIdx) = some (b, j))
    (hgap : countGapMax (besides j (besides i counts.zipIdx)) = gap) :
    selectAxis p counts = some
      (if b = 0 ∨ b ≤ gap ∨ p.collapseDiv * b < a then collapsedAxis (a, i) b gap
      else separateAxis counts (a, i) (b, j) gap) := by
  simp only [selectAxis, htop, hsecond, hgap]
  split_ifs <;> rfl

theorem getD_max_of_getElem? {counts : List Nat} {i a j b : Nat} (hi : counts[i]? = some a)
    (hj : counts[j]? = some b) : counts.getD (max i j) 0 = if i < j then b else a := by
  split_ifs with hij
  · rw [max_eq_right hij.le, List.getD_eq_getElem?_getD, hj, Option.getD_some]
  · rw [max_eq_left (not_lt.1 hij), List.getD_eq_getElem?_getD, hi, Option.getD_some]

/-- Settles O24: the independent descriptions of the two winners and of the highest of the rest name what the ranking
finds. -/
theorem selectAxisResult : Obligations.SelectAxisResult := by
  refine ⟨fun p c => rfl, fun p counts i a j b gap htop hsecond hgap => ?_⟩
  have hsorted := pairwise_zipIdx_lt counts
  rw [selectAxis_of_ranks
    (htop.topRank_eq hsorted (by simp [List.mk_mem_zipIdx_iff_getElem?]))
    (hsecond.topRank_eq (pairwise_besides hsorted) (by simp [List.mk_mem_zipIdx_iff_getElem?]))
    hgap.countGapMax_eq, separateAxis, getD_max_of_getElem? htop.here hsecond.here]
  rfl

end Sys2Proof.Machine
end

section
/-! The obligation on the break predicate (43_gap_detector_freq_stats R140). -/

namespace Sys2Proof.Machine

theorem isBreak_iff {longPulse longSpace : Nibble} {np : Byte} :
    isBreak longPulse longSpace np = true ↔ longPulse < hi np ∨ longSpace < lo np := by
  simp [isBreak]

/-- Settles O26: the sentinel, 15, is above every long threshold a table of eight buckets can have. -/
theorem breakPredicate : Obligations.BreakPredicate := by
  intro longPulse longSpace np
  refine ⟨isBreak_iff, fun hpulse hspace hsentinel => isBreak_iff.2 (hsentinel.imp (fun h => ?_) fun h => ?_)⟩
  · rw [h]
    exact hpulse.trans_lt (by decide)
  · rw [h]
    exact hspace.trans_lt (by decide)

end Sys2Proof.Machine
end

section
/-! The obligation on three identical bursts (43_gap_detector_freq_stats R146): what the scan does over a run of data
half-bits and at the break that ends it, and how the registers count equal messages. -/

namespace Sys2Proof.Machine

/-! ### The scan over a burst (R141, R143) -/

section
variable {p : Params} {brk : Byte → Bool} {k : Nat} {c : Scan}

/-- Data half-bits only lengthen the run. -/
theorem scanFrom_data {burst : List Byte} (hdata : ∀ np ∈ burst, brk np = false) (rest : List Byte) :
    scanFrom p brk k c (burst ++ rest) =
      scanFrom p brk (k + burst.length) { c with run := c.run + burst.length } rest := by
  induction burst generalizing k c with
  | nil => rfl
  | cons np burst ih =>
    obtain ⟨hnp, hburst⟩ := List.forall_mem_cons.1 hdata
    rw [List.cons_append, scanFrom, scanHalfbit, hnp, if_neg Bool.false_ne_true, ih hburst, List.length_cons,
      Nat.add_right_comm k, Nat.add_right_comm c.run]
    rfl

theorem scanFrom_break {gap : Byte} (hgap : brk gap = true) (rest : List Byte) :
    scanFrom p brk k c (gap :: rest) =
      scanFrom p brk (k + 1) { closeSpan p (k - c.run) k c.run c with run := 0 } rest := by
  rw [scanFrom, scanHalfbit, if_pos hgap]

theorem scanFrom_nil_of_closed (hrun : c.run = 0) : scanFrom p brk k c [] = c := if_neg hrun.not_gt

theorem scanFrom_nil_of_open (hrun : 0 < c.run) :
    scanFrom p brk k c [] = closeSpan p (k - c.run) (k - 1) c.run c := if_pos hrun

end

/-! ### The count of equal messages (R142) -/

/-- The registers have closed `m` messages of one length, and no other. -/
structure Scan.Repeated (c : Scan) (length m : Nat) : Prop where
  repeats : c.repeats = m
  best : 0 < m → c.bestLen = length
  lengths : c.spans.map (fun x => x.length.toNat) = List.replicate m length

theorem Scan.start_repeated (length : Nat) : Scan.start.Repeated length 0 := ⟨rfl, by simp, rfl⟩

theorem Scan.Repeated.setRun {c : Scan} {length m : Nat} (h : c.Repeated length m) (run : Nat) :
    { c with run := run }.Repeated length m := ⟨h.repeats, h.best, h.lengths⟩

theorem spanOf_length_toNat {start stop length : Nat} (h : length < 2 ^ 10) :
    (spanOf start stop length).length.toNat = length :=
  (BitVec.toNat_ofNat _ _).trans (Nat.mod_eq_of_lt h)

section
variable {p : Params} {c : Scan} {length m : Nat}

/-- One more message of that length is one more repeat and one more span. -/
theorem Scan.Repeated.closeSpan (h : c.Repeated length m) (hpos : 0 < length) (hfits : length < 2 ^ 10)
    (hroom : m < p.maxSpans) (start stop : Nat) : (closeSpan p start stop length c).Repeated length (m + 1) := by
  obtain ⟨hrepeats, hbest, hlengths⟩ := h
  have hcount : c.spans.length = m := by simpa using congrArg List.length hlengths
  rw [Machine.closeSpan, if_neg hpos.ne']
  obtain rfl | hm := m.eq_zero_or_pos
  · rw [if_pos (.inl hrepeats)]
    exact ⟨rfl, fun _ => rfl, by simp [spanOf_length_toNat hfits]⟩
  · have hbest := hbest hm
    rw [if_neg (by omega), if_pos (by omega), if_pos (by omega)]
    refine ⟨congrArg (· + 1) hrepeats, fun _ => hbest, ?_⟩
    simp [hlengths, spanOf_length_toNat hfits, List.replicate_succ']

end

/-! ### The bursts -/

section
variable {p : Params} {brk : Byte → Bool} {k m : Nat} {c : Scan} {burst : List Byte}
  (h : c.Repeated burst.length m) (hrun : c.run = 0) (hroom : m < p.maxSpans) (hpos : 0 < burst.length)
  (hfits : burst.length < 2 ^ 10) (hdata : ∀ np ∈ burst, brk np = false)
include h hrun hroom hpos hfits hdata

/-- A burst and its gap are one message more, and the scan goes on with no open run. -/
theorem scanFrom_burst {gap : Byte} (hgap : brk gap = true) (rest : List Byte) :
    ∃ k' c', c'.Repeated burst.length (m + 1) ∧ c'.run = 0 ∧
      scanFrom p brk k c (burst ++ gap :: rest) = scanFrom p brk k' c' rest := by
  refine ⟨_, _, ?_, ?_, (scanFrom_data hdata _).trans (scanFrom_break hgap rest)⟩
  · simpa only [hrun, Nat.zero_add] using ((h.setRun _).closeSpan hpos hfits hroom _ _).setRun 0
  · rfl

/-- The last burst is one message more, whether its gap was captured or not. -/
theorem scanFrom_lastBurst {last : List Byte} (hlast : last = [] ∨ ∃ gap, last = [gap] ∧ brk gap = true) :
    (scanFrom p brk k c (burst ++ last)).Repeated burst.length (m + 1) := by
  obtain rfl | ⟨gap, rfl, hgap⟩ := hlast
  · rw [scanFrom_data hdata, scanFrom_nil_of_open (by simpa [hrun] using hpos)]
    simpa only [hrun, Nat.zero_add] using (h.setRun _).closeSpan hpos hfits hroom _ _
  · obtain ⟨k', c', hc', hrun', hscan⟩ := scanFrom_burst (k := k) h hrun hroom hpos hfits hdata hgap []
    rwa [hscan, scanFrom_nil_of_closed hrun']

end

/-- Settles O29: each burst adds one message of its length to those before it. -/
theorem threeBurstsGiveThreeSpans : Obligations.ThreeBurstsGiveThreeSpans := by
  intro longPulse longSpace burst last gap1 gap2 L hL hlength hdata hgap1 hgap2 hlast hfits
  simp only [List.append_assoc, List.cons_append, List.length_append, List.length_cons] at hfits ⊢
  have hpos : 0 < burst.length := by omega
  have hshort : burst.length < 2 ^ 10 := by omega
  rw [segment]
  obtain ⟨k1, c1, h1, hrun1, hscan1⟩ := scanFrom_burst (p := configured) (k := 0)
    (Scan.start_repeated burst.length) rfl (by decide) hpos hshort hdata hgap1 (burst ++ gap2 :: (burst ++ last))
  obtain ⟨k2, c2, h2, hrun2, hscan2⟩ := scanFrom_burst (p := configured) (k := k1)
    h1 hrun1 (by decide) hpos hshort hdata hgap2 (burst ++ last)
  have h3 := scanFrom_lastBurst (p := configured) (k := k2) h2 hrun2 (by decide) hpos hshort hdata hlast
  rw [hscan1, hscan2, ← hlength]
  exact ⟨h3.repeats, h3.lengths⟩

end Sys2Proof.Machine
end

section
/-! The obligations on bucket midpoints and on Classify (44_modulation_classifier R160-R164). -/

namespace Sys2Proof.Machine

/-- The mean of two widths is a width, so it is kept whole. -/
@[simp] theorem halfway_toNat (a b : Dur) : (halfway a b).toNat = (a.toNat + b.toNat) / 2 := by
  have ha := a.isLt
  have hb := b.isLt
  rw [halfway, BitVec.toNat_ofNat, Nat.mod_eq_of_lt (by omega)]

@[simp] theorem Bucket.mid_toNat (b : Bucket) : b.mid.toNat = (b.min.toNat + b.max.toNat) / 2 :=
  halfway_toNat b.min b.max

/-- Settles O30: both ends of a real bucket's range are 2 or more, so their mean is. -/
theorem midpointRoundsDown : Obligations.MidpointRoundsDown := by
  refine ⟨Bucket.mid_toNat, fun s b hs hb => ?_⟩
  have hmin : 2 ≤ b.min.toNat := hs.widths b hb
  have hord : b.min.toNat ≤ b.max.toNat := hs.table.ordered b hb
  rw [Bucket.mid_toNat]
  omega

theorem midAt_of_getElem? {live : List Bucket} {i : Nibble} {b : Bucket} (h : live[i.toNat]? = some b) :
    midAt live i = b.mid := by
  rw [midAt, h]

theorem modulationFlag_iff {p : Params} {live : List Bucket} {axis : AxisThresholds} {short long : Bucket}
    (hshort : live[axis.short.toNat]? = some short) (hlong : live[axis.long.toNat]? = some long) :
    modulationFlag p live axis = true ↔ p.modRatio * short.mid.toNat < long.mid.toNat := by
  rw [modulationFlag, decide_eq_true_iff, midAt_of_getElem? hshort, midAt_of_getElem? hlong]

theorem modulationOf_code_toNat (pwm pdm : Bool) :
    (modulationOf pwm pdm).code.toNat = pwm.toNat + 2 * pdm.toNat := by
  revert pwm pdm
  decide

/-- The threshold of an axis, from the midpoints of its short and its long bucket (R164). -/
theorem halfway_midAt_toNat {live : List Bucket} {i j : Nibble} {short long : Bucket}
    (hshort : live[i.toNat]? = some short) (hlong : live[j.toNat]? = some long) :
    (halfway (midAt live i) (midAt live j)).toNat = (short.mid.toNat + long.mid.toNat) / 2 := by
  rw [halfway_toNat, midAt_of_getElem? hshort, midAt_of_getElem? hlong]

/-- Settles O31: the same two facts on each axis, its flag and its threshold, and the code of the two flags. -/
theorem classifyResult : Obligations.ClassifyResult := by
  intro live pulse space sp lp ss ls hsp hlp hss hls
  exact ⟨modulationFlag_iff hsp hlp, modulationFlag_iff hss hls, modulationOf_code_toNat _ _,
    halfway_midAt_toNat hsp hlp, halfway_midAt_toNat hss hls⟩

end Sys2Proof.Machine
end

section
/-! The obligation on the bits of the decoded stream (44_modulation_classifier R165-R171): what the packer shows, that
each half-bit adds to it exactly what `halfbitTrace` says, and that the bits are one part of what is shown. -/

namespace Sys2Proof.Machine

/-! ### The bits of an accumulator (R167) -/

/-- The low `n` bits of a byte, highest of them first. -/
def lowBits (acc : Byte) (n : Nat) : List Bool := (List.range n).map fun i => acc.getLsbD (n - 1 - i)

@[simp] theorem StreamItem.trace_byte (acc : Byte) (nbits : BitVec 4) :
    (StreamItem.byte acc nbits).trace = (lowBits acc nbits.toNat).map .inl := rfl

@[simp] theorem lowBits_zero (acc : Byte) : lowBits acc 0 = [] := rfl

/-- Shifting a bit in puts it after the bits held so far, as long as none of these leaves the byte. -/
theorem lowBits_shift (acc : Byte) (b : Bool) {n : Nat} (hn : n < 8) :
    lowBits ((acc <<< 1) ||| BitVec.setWidth 8 (BitVec.ofBool b)) (n + 1) = lowBits acc n ++ [b] := by
  rw [lowBits, List.range_succ, List.map_append, lowBits]
  congr 1
  · refine List.map_congr_left fun i hi => ?_
    have hi : i < n := List.mem_range.1 hi
    have hhigh : n - i < 8 := by omega
    have hpos : n - i ≠ 0 := by omega
    have hlow : n - 1 - i < 8 := by omega
    simp [hhigh, hpos, Nat.sub_right_comm n i 1, BitVec.getLsbD_eq_getElem hlow]
  · simp

/-! ### What the packer shows (R167, R168) -/

/-- The packer has room for a bit, and shows in order what `shown` lists: its stream, then the bits it still holds. -/
structure Packer.Shows (k : Packer) (shown : List (Bool ⊕ StreamItem)) : Prop where
  room : k.nb < 8
  trace : k.stream.flatMap StreamItem.trace ++ (lowBits k.acc k.nb).map .inl = shown

theorem Packer.start_shows : Packer.start.Shows [] := ⟨by decide, rfl⟩

section
variable {k : Packer} {shown : List (Bool ⊕ StreamItem)}

/-- A pushed bit is shown last, whether or not it fills a byte. -/
theorem Packer.Shows.push (h : k.Shows shown) (b : Bool) : (k.push b).Shows (shown ++ [.inl b]) := by
  obtain ⟨hroom, rfl⟩ := h
  have hbits := lowBits_shift k.acc b hroom
  rw [Packer.push]
  split
  next hfull =>
    rw [hfull] at hbits
    exact ⟨by simp, by simp [hbits]⟩
  next hnot => exact ⟨Nat.lt_of_le_of_ne hroom hnot, by simp [hbits]⟩

theorem Packer.Shows.pushIf (h : k.Shows shown) (decoded b : Bool) :
    (k.pushIf decoded b).Shows (shown ++ (if decoded then [b] else []).map .inl) := by
  cases decoded with
  | false => simpa [Packer.pushIf] using h
  | true => exact h.push b

/-- After a flush the stream alone shows it all. -/
theorem Packer.Shows.flush (h : k.Shows shown) :
    k.flush.stream.flatMap StreamItem.trace = shown ∧ k.flush.nb = 0 := by
  obtain ⟨hroom, rfl⟩ := h
  rw [Packer.flush]
  split
  next =>
    have hnbits : k.nb % 16 = k.nb := Nat.mod_eq_of_lt (by omega)
    simp [hnbits]
  next hempty =>
    have hnb : k.nb = 0 := by omega
    simp [hnb]

/-! ### The half-bits (R165, R166, R168, R170) -/

variable {live : List Bucket} {c : Classification} {brk : Byte → Bool}

/-- A half-bit adds to what is shown its MARK when it is a break, and its bits when it is none. -/
theorem Packer.Shows.decodeHalfbit (h : k.Shows shown) (np : Byte) (i : Nat) :
    (decodeHalfbit live c brk k np i).Shows (shown ++ halfbitTrace live c brk (np, i)) := by
  rw [Machine.decodeHalfbit, halfbitTrace]
  by_cases hbrk : brk np = true
  · obtain ⟨hstream, hnb⟩ := h.flush
    rw [if_pos hbrk, if_pos hbrk]
    exact ⟨by simp [hnb], by simp [hnb, hstream, markOf, StreamItem.trace]⟩
  · rw [if_neg hbrk, if_neg hbrk, dataBits, if_neg hbrk, List.map_append, ← List.append_assoc]
    exact (h.pushIf _ _).pushIf _ _

/-- Decode's loop adds what each half-bit must show, in order, and its last flush leaves it all in the stream. -/
theorem Packer.Shows.decodeFrom (h : k.Shows shown) (i : Nat) (bytes : List Byte) :
    (decodeFrom live c brk i k bytes).stream.flatMap StreamItem.trace =
      shown ++ (bytes.zipIdx i).flatMap (halfbitTrace live c brk) := by
  induction bytes generalizing i k shown with
  | nil => simpa [Machine.decodeFrom] using h.flush.1
  | cons np rest ih =>
    rw [Machine.decodeFrom, ih (h.decodeHalfbit np i), List.zipIdx_cons, List.flatMap_cons, List.append_assoc]

end

/-- The decoded stream shows the half-bits of the buffer in order, and nothing else (R165-R170). -/
theorem decodeStream_trace {live : List Bucket} {c : Classification} {longPulse longSpace : Nibble}
    (bytes : List Byte) (hc : c.modulation ≠ .unknown) :
    (decodeStream live c longPulse longSpace bytes).flatMap StreamItem.trace =
      bytes.zipIdx.flatMap (halfbitTrace live c (isBreak longPulse longSpace)) := by
  rw [decodeStream, if_neg hc, Packer.start_shows.decodeFrom, List.nil_append]

/-! ### The bits of a trace -/

/-- The bits among what is shown, in order. -/
def shownBits (shown : List (Bool ⊕ StreamItem)) : List Bool := shown.filterMap Sum.getLeft?

@[simp] theorem shownBits_map_inl (bits : List Bool) : shownBits (bits.map .inl) = bits := by
  rw [shownBits, List.filterMap_map]
  exact List.filterMap_some

theorem shownBits_flatMap {α : Type} (items : List α) (f : α → List (Bool ⊕ StreamItem)) :
    shownBits (items.flatMap f) = items.flatMap fun x => shownBits (f x) :=
  List.filterMap_flatMap

theorem shownBits_trace (item : StreamItem) : shownBits item.trace = item.bits := by
  cases item with
  | byte acc nbits => exact shownBits_map_inl _
  | mark offset p s pTime sTime => rfl

theorem shownBits_halfbitTrace (live : List Bucket) (c : Classification) (brk : Byte → Bool) (x : Byte × Nat) :
    shownBits (halfbitTrace live c brk x) = dataBits live c brk x.1 := by
  rw [halfbitTrace]
  split
  next hbrk =>
    rw [dataBits, if_pos hbrk]
    rfl
  next => exact shownBits_map_inl _

/-- Settles O33: the stream shows what its half-bits must show, so it shows the same bits; an UNKNOWN modulation is
Decode's own first branch. -/
theorem streamBitsAreDataBits : Obligations.StreamBitsAreDataBits := by
  intro live c longPulse longSpace bytes
  refine ⟨fun hc => ?_, fun hc => if_pos hc⟩
  have hbits := congrArg shownBits
    (decodeStream_trace (live := live) (longPulse := longPulse) (longSpace := longSpace) bytes hc)
  simp only [shownBits_flatMap, shownBits_trace, shownBits_halfbitTrace] at hbits
  rw [hbits, ← List.flatMap_map, List.zipIdx_map_fst]

end Sys2Proof.Machine
end

section
/-! The append of the pending pulse (45_capture_buffer_controller R183) to a buffer with room, as one state, which
EndSession's flush and an odd edge share. -/

namespace Sys2Proof.Machine

/-- The session with its pending pulse and a space width appended as one half-bit. -/
def State.appended (space : Dur) (s : State) : State :=
  { s with
    table := (classifyPair configured s.pendW space s.table).2
    buf := Memory.write s.buf s.len.toNat (classifyPair configured s.pendW space s.table).1
    len := s.len + 1
    pendValid := false }

section
variable {space : Dur} {s : State}

theorem appendPending_of_room (hroom : s.len.toNat < 512) :
    appendPending configured space s = .ok (s.appended space) :=
  appendPending_eq_ok.2 ⟨hroom, rfl⟩

theorem State.appended_len_toNat (hroom : s.len.toNat < 512) : (s.appended space).len.toNat = s.len.toNat + 1 :=
  BitVec.toNat_add_of_lt (y := 1) (show s.len.toNat + 1 < 2 ^ 10 by omega)

theorem State.appended_table :
    (s.appended space).table =
      (classifyWidth configured space .space (classifyWidth configured s.pendW .pulse s.table).2).2 := rfl

theorem State.hi_read_appended (hwf : Memory.wf s.buf = true) :
    hi (Memory.read (s.appended space).buf s.len.toNat) = (classifyWidth configured s.pendW .pulse s.table).1 :=
  (congrArg hi (Memory.read_write_same hwf)).trans (hi_pack _ _)

theorem State.lo_read_appended (hwf : Memory.wf s.buf = true) :
    lo (Memory.read (s.appended space).buf s.len.toNat) =
      (classifyWidth configured space .space (classifyWidth configured s.pendW .pulse s.table).2).1 :=
  (congrArg lo (Memory.read_write_same hwf)).trans (lo_pack _ _)

theorem State.read_appended_of_ne {k : Nat} (hk : k ≠ s.len.toNat) :
    Memory.read (s.appended space).buf k = Memory.read s.buf k :=
  Memory.read_write_other hk

end

end Sys2Proof.Machine
end

section
/-! The obligations on EndSession and on FOOTER (45_capture_buffer_controller R182, R185): the session that EndSession
hands to the short-burst guard, and what the guard makes of it. -/

namespace Sys2Proof.Machine

/-! ### The flush -/

theorem classifyWidth_zero (p : Params) (axis : Axis) (t : BucketTable) :
    classifyWidth p 0 axis t = (Config.sentinel, t) := if_pos rfl

/-- The session `u` that EndSession, ending `s` for a reason, hands to the short-burst guard (R182). -/
structure AtGuard (reason : EndReason) (s u : State) : Prop where
  clock : SameClock s u
  endReason : u.endReason = reason
  reports : u.reports = s.reports
  flushed : Flushed s u

section
variable {reason : EndReason} {s u : State}

theorem atGuard_of_not_pending (hpend : s.pendValid = false) : AtGuard reason s { s with endReason := reason } where
  clock := ⟨rfl, rfl, rfl, rfl, rfl, rfl⟩
  endReason := rfl
  reports := rfl
  flushed := {
    len := by simp [State.endHalfbits, hpend]
    pendValid := hpend
    pendW := rfl
    table := by simp [hpend]
    pulse := by simp [hpend]
    space := by simp [hpend]
    others := fun _ _ => rfl }

/-- The flush classifies the pulse alone: its space of width 0 gets the sentinel and leaves the table. -/
theorem atGuard_of_pending (hpend : s.pendValid = true) (hroom : s.len.toNat < 512) (hwf : Memory.wf s.buf = true) :
    AtGuard reason s (State.appended 0 { s with endReason := reason }) where
  clock := ⟨rfl, rfl, rfl, rfl, rfl, rfl⟩
  endReason := rfl
  reports := rfl
  flushed := {
    len := by
      rw [State.endHalfbits, if_pos hpend]
      exact State.appended_len_toNat hroom
    pendValid := rfl
    pendW := rfl
    table := by rw [State.appended_table, classifyWidth_zero, if_pos hpend]
    pulse := fun _ => State.hi_read_appended hwf
    space := fun _ => (State.lo_read_appended hwf).trans (by rw [classifyWidth_zero])
    others := fun _ hk => State.read_appended_of_ne (hk hpend) }

/-- EndSession answers what the guard makes of the session with its pending pulse flushed. -/
theorem endSession_eq_guardShort (hwf : Memory.wf s.buf = true) (hroom : s.pendValid = true → s.len.toNat < 512) :
    ∃ u, AtGuard reason s u ∧ endSession configured reason s = .ok (guardShort configured u) := by
  cases hpend : s.pendValid with
  | false => exact ⟨_, atGuard_of_not_pending hpend, endSession_eq_ok.2 (.inl ⟨hpend, rfl⟩)⟩
  | true =>
    exact ⟨_, atGuard_of_pending hpend (hroom hpend) hwf,
      endSession_eq_ok.2 (.inr ⟨hpend, _, appendPending_of_room (hroom hpend), rfl⟩)⟩

/-! ### The guard -/

theorem State.reportAndIdle_cleared (s : State) (r : Report) : (s.reportAndIdle r).Cleared := by
  constructor <;> simp

theorem State.reportAndIdle_sameClock (s : State) (r : Report) : SameClock s (s.reportAndIdle r) := by
  constructor <;> simp

theorem SameClock.trans {v : State} (h : SameClock s u) (h' : SameClock u v) : SameClock s v where
  timeMs := h'.timeMs.trans h.timeMs
  startMs := h'.startMs.trans h.startMs
  lastEdgeMs := h'.lastEdgeMs.trans h.lastEdgeMs
  cmdErr := h'.cmdErr.trans h.cmdErr
  dropCount := h'.dropCount.trans h.dropCount
  agenda := h'.agenda.trans h.agenda

theorem SameClock.setFsm (h : SameClock s u) (fsm : Fsm) : SameClock s { u with fsm := fsm } := by
  cases h
  constructor <;> assumption

theorem Flushed.setFsm (h : Flushed s u) (fsm : Fsm) : Flushed s { u with fsm := fsm } := by
  cases h
  constructor <;> assumption

theorem AtGuard.briefReport_eq (h : AtGuard reason s u) : u.briefReport .noiseShort = shortReport reason s := by
  have hlen : u.len = BitVec.ofNat 10 s.endHalfbits := by
    rw [← h.flushed.len, BitVec.ofNat_toNat, BitVec.setWidth_eq]
  rw [State.briefReport, shortReport, h.endReason, hlen, h.clock.startMs, h.clock.lastEdgeMs]

/-- The guard looks at the length with the flushed pair counted, so it splits where the statement does. -/
theorem AtGuard.ended (h : AtGuard reason s u) : Ended reason s (guardShort configured u) := by
  rcases guardShort_cases configured u with ⟨hshort, hguard⟩ | ⟨hlong, hguard⟩
  · rw [h.flushed.len, configured_minHalfbits] at hshort
    rw [hguard, Ended, if_pos hshort, h.briefReport_eq]
    exact ⟨h.clock.trans (u.reportAndIdle_sameClock _), h.endReason, rfl, u.reportAndIdle_cleared _,
      congrArg (· ++ [_]) h.reports⟩
  · rw [h.flushed.len, configured_minHalfbits] at hlong
    rw [hguard, Ended, if_neg hlong.not_gt]
    exact ⟨h.clock.setFsm _, h.endReason, rfl, h.reports, h.flushed.setFsm _⟩

end

/-- Settles O36: the guard ends the session that the flush leaves. -/
theorem endSessionResult : Obligations.EndSessionResult := by
  intro reason s hwf hroom
  obtain ⟨u, hu, heq⟩ := endSession_eq_guardShort (reason := reason) hwf hroom
  exact ⟨_, heq, hu.ended⟩

/-! ### FOOTER -/

theorem satIncrement_eq_min (v : Count) : satIncrement v = BitVec.ofNat 32 (min (v.toNat + 1) (2 ^ 32 - 1)) := by
  unfold satIncrement
  split_ifs with h
  · rw [min_eq_left (by omega), BitVec.ofNat_add, BitVec.ofNat_toNat, BitVec.setWidth_eq]
    rfl
  · rw [min_eq_right (by omega)]
    rfl

theorem State.countDrop_eq (s : State) :
    s.countDrop = { s with dropCount := BitVec.ofNat 32 (min (s.dropCount.toNat + 1) (2 ^ 32 - 1)) } := by
  rw [State.countDrop, satIncrement_eq_min]

theorem exec_footer (l q : Bool) (v : BitVec 8) (b : Bool) (s : State) :
    exec (.footer l q v b) s = footer configured s := rfl

/-- Settles O37: FOOTER's case of each state, with EndSession's result for the one that ends a session. -/
theorem footerResult : Obligations.FooterResult := by
  intro l q v b s
  rw [exec_footer]
  refine ⟨footer_of_idle, fun hfsm hwf hroom => ?_, fun hfsm => ?_⟩
  · rw [footer_of_capturing hfsm]
    obtain ⟨t, ht, hended⟩ := endSessionResult .footer { s with lastEdgeMs := s.timeMs } hwf hroom
    exact ⟨t, answer_eq_next.2 ht, hended⟩
  · rw [footer_of_finalizing hfsm, State.countDrop_eq]

end Sys2Proof.Machine
end

section
/-! The obligations on EDGE in IDLE and on an odd edge in CAPTURING (45_capture_buffer_controller R181, R183, R184). -/

namespace Sys2Proof.Machine

theorem exec_edge (l q : Bool) (v : BitVec 8) (w : Dur) (s : State) :
    exec (.edge l q v w) s = edge configured l w s := rfl

/-- Settles O38: the start band is EDGE's own test in IDLE, and inside it the session starts. -/
theorem edgeInIdleResult : Obligations.EdgeInIdleResult := by
  intro l q v w s hfsm
  rw [exec_edge, edge_of_idle hfsm, edgeIdle]
  rfl

/-! ### An odd edge -/

theorem guardShort_of_le {p : Params} {s : State} (h : p.minHalfbits ≤ s.len.toNat) :
    guardShort p s = { s with fsm := .finalizing } := if_neg h.not_gt

section
variable {w : Dur} {s : State}

theorem edgeSpace_below_last (hlen : s.len.toNat < 511) : edgeSpace configured w s = .ok (s.appended w) := by
  have hroom : s.len.toNat < 512 := by omega
  refine edgeSpace_eq_ok.2 ⟨_, appendPending_of_room hroom, .inr ⟨?_, rfl⟩⟩
  rw [State.appended_len_toNat hroom, configured_cap]
  omega

/-- The append that fills the buffer ends the session: with no pulse left to flush, and long past the guard. -/
theorem edgeSpace_last (hlen : s.len.toNat = 511) :
    edgeSpace configured w s = .ok { s.appended w with endReason := .bufferFull, fsm := .finalizing } := by
  have hroom : s.len.toNat < 512 := by omega
  have hfull : (s.appended w).len.toNat = 512 := by rw [State.appended_len_toNat hroom, hlen]
  have hguard : guardShort configured { s.appended w with endReason := .bufferFull } =
      { s.appended w with endReason := .bufferFull, fsm := .finalizing } :=
    guardShort_of_le (show 64 ≤ (s.appended w).len.toNat by omega)
  exact edgeSpace_eq_ok.2
    ⟨_, appendPending_of_room hroom, .inl ⟨hfull, endSession_eq_ok.2 (.inl ⟨rfl, hguard.symm⟩)⟩⟩

end

/-- Settles O40: the edge answers with the appended session, ended in the one case that the append fills the buffer. -/
theorem oddEdgeIsAppended : Obligations.OddEdgeIsAppended := by
  intro l q v w s hfsm hpend hceiling hroom hwf
  refine ⟨(s.appended w).buf, ?_, State.hi_read_appended hwf, State.lo_read_appended hwf,
    fun _ => State.read_appended_of_ne⟩
  rw [exec_edge, edge_of_capturing hfsm, answer_eq_next]
  refine edgeCapturing_eq_ok.2 (.inr (.inl ⟨hceiling, hpend, ?_⟩))
  by_cases hlast : s.len.toNat = 511
  · rw [if_pos hlast, if_pos hlast]
    exact edgeSpace_last hlast
  · have hlen : s.len.toNat < 511 := by omega
    rw [if_neg hlast, if_neg hlast, ← hfsm]
    exact edgeSpace_below_last hlen

end Sys2Proof.Machine
end

section
/-! The obligations on TICK and on reserved words (45_capture_buffer_controller R186, R188). -/

namespace Sys2Proof.Machine

/-- The watchdog's compare on the gap as a number, modulo `2^30`. -/
theorem watchdogFires_iff {p : Params} {s : State} :
    watchdogFires p s = true ↔
      s.fsm = .capturing ∧ p.sessionTimeoutMs < (s.timeMs.toNat + 2 ^ 30 - s.lastEdgeMs.toNat) % 2 ^ 30 := by
  have hgap : (s.timeMs - s.lastEdgeMs).toNat = (s.timeMs.toNat + 2 ^ 30 - s.lastEdgeMs.toNat) % 2 ^ 30 := by
    rw [BitVec.toNat_sub]
    omega
  rw [watchdogFires, hgap, Bool.and_eq_true, decide_eq_true_iff, decide_eq_true_iff]

theorem exec_tick (now : TimeMs) (s : State) : exec (.tick now) s = .next (tick configured now s) := rfl

/-- Settles O43: the compare is made with the time already written, and abandoning is a report and a cleared
session. -/
theorem tickResult : Obligations.TickResult := by
  intro now s
  rw [exec_tick, tick]
  simp only [watchdogFires_iff]
  rfl

/-- Settles O44: both reserved commands mean SetCmdErr. -/
theorem reservedWordSetsErrorOnly : Obligations.ReservedWordSetsErrorOnly := fun _ _ => ⟨rfl, rfl⟩

end Sys2Proof.Machine
end

section
/-! The obligations on the encoder and the decoder (30_encoding R70-R77, R81): a format's word as a number, its fields
read back, and the two directions of the round trip. -/

namespace Sys2Proof

/-! ### A format's word, as a number -/

/-- A field below bit `n` and the fields above it share no bit, so joining them is adding them. -/
theorem mul_two_pow_or_of_lt (high : Nat) {low n : Nat} (h : low < 2 ^ n) :
    high * 2 ^ n ||| low = high * 2 ^ n + low := by
  rw [mul_comm, Nat.two_pow_add_eq_or_of_lt h]

/-- A field of width `n` placed at bit `k` of a word that has room for it. -/
theorem setWidth_shiftLeft_toNat {n k : Nat} (x : BitVec n) (h : n + k ≤ 32) :
    (x.setWidth 32 <<< k).toNat = x.toNat * 2 ^ k := by
  have hfits : x.toNat * 2 ^ k < 2 ^ 32 :=
    calc x.toNat * 2 ^ k < 2 ^ n * 2 ^ k := Nat.mul_lt_mul_of_pos_right x.isLt (Nat.two_pow_pos k)
      _ = 2 ^ (n + k) := (Nat.pow_add 2 n k).symm
      _ ≤ 2 ^ 32 := Nat.pow_le_pow_right (by decide) h
  rw [BitVec.toNat_shiftLeft, BitVec.toNat_setWidth_of_le (by omega), Nat.shiftLeft_eq, Nat.mod_eq_of_lt hfits]

theorem encodeLow_toNat (cmd : BitVec 2) (low : BitVec 30) :
    (encodeLow cmd low).toNat = cmd.toNat * 2 ^ 30 + low.toNat := by
  rw [encodeLow, BitVec.toNat_or, setWidth_shiftLeft_toNat cmd (by decide), BitVec.toNat_setWidth_of_le (by decide),
    mul_two_pow_or_of_lt _ low.isLt]

/-- Format E's word is its four fields side by side under CMD = 00 (R72). -/
theorem encodeE_toNat (level hasQual : Bool) (qual : BitVec 8) (width : Dur) :
    (encodeE level hasQual qual width).toNat =
      ((level.toNat * 2 + hasQual.toNat) * 2 ^ 8 + qual.toNat) * 2 ^ 20 + width.toNat := by
  have hq := hasQual.toNat_lt
  have hv := qual.isLt
  have hlevel : level.toNat * 2 ^ 29 ||| hasQual.toNat * 2 ^ 28 = (level.toNat * 2 + hasQual.toNat) * 2 ^ 28 := by
    rw [mul_two_pow_or_of_lt _ (by omega)]
    omega
  have hqual (high : Nat) : high * 2 ^ 28 ||| qual.toNat * 2 ^ 20 = (high * 2 ^ 8 + qual.toNat) * 2 ^ 20 := by
    rw [mul_two_pow_or_of_lt _ (by omega)]
    omega
  rw [encodeE, BitVec.toNat_or, BitVec.toNat_or, BitVec.toNat_or, setWidth_shiftLeft_toNat _ (by decide),
    setWidth_shiftLeft_toNat _ (by decide), setWidth_shiftLeft_toNat _ (by decide),
    BitVec.toNat_setWidth_of_le (by decide), BitVec.toNat_ofBool, BitVec.toNat_ofBool, hlevel, hqual,
    mul_two_pow_or_of_lt _ width.isLt]

/-! ### The fields read back -/

theorem bool_eq_of_toNat_eq : ∀ {a b : Bool}, a.toNat = b.toNat → a = b := by decide

theorem getLsbD_toNat (word : CmdWord) (k : Nat) : (word.getLsbD k).toNat = word.toNat / 2 ^ k % 2 :=
  Nat.toNat_testBit word.toNat k

section
variable (level hasQual : Bool) (qual : BitVec 8) (width : Dur)

theorem level_encodeE : (encodeE level hasQual qual width).getLsbD 29 = level := by
  have hv := qual.isLt
  have hl := level.toNat_lt
  have hq := hasQual.toNat_lt
  apply bool_eq_of_toNat_eq
  rw [getLsbD_toNat, encodeE_toNat]
  omega

theorem hasQual_encodeE : (encodeE level hasQual qual width).getLsbD 28 = hasQual := by
  have hv := qual.isLt
  have hq := hasQual.toNat_lt
  apply bool_eq_of_toNat_eq
  rw [getLsbD_toNat, encodeE_toNat]
  omega

theorem qualField_encodeE : qualField (encodeE level hasQual qual width) = qual := by
  apply BitVec.eq_of_toNat_eq
  rw [qualField_toNat, encodeE_toNat]
  omega

theorem widthField_encodeE : widthField (encodeE level hasQual qual width) = width := by
  apply BitVec.eq_of_toNat_eq
  rw [widthField_toNat, encodeE_toNat]
  omega

theorem lowBit_encodeE : (encodeE level hasQual qual width).getLsbD 0 = width.getLsbD 0 := by
  apply bool_eq_of_toNat_eq
  rw [getLsbD_toNat, encodeE_toNat, BitVec.getLsbD, Nat.toNat_testBit]
  omega

/-- A word of format E is decoded by its width alone: a footer marker up to `FOOTER_MAX`, an edge above (R73). -/
theorem decode_encodeE :
    decode (encodeE level hasQual qual width) =
      if width.toNat ≤ 1 then .footer level hasQual qual (width.getLsbD 0) else .edge level hasQual qual width := by
  have hwidth : (encodeE level hasQual qual width).toNat % 2 ^ 20 = width.toNat := by
    rw [encodeE_toNat]
    omega
  rw [decode, if_pos (Laws.Format.cmdField_encodeE level hasQual qual width), decodeE]
  simp only [footerBits_eq_zero_iff, hwidth, level_encodeE, hasQual_encodeE, qualField_encodeE, widthField_encodeE,
    lowBit_encodeE]

end

theorem lowField_encodeLow (cmd : BitVec 2) (low : BitVec 30) : lowField (encodeLow cmd low) = low := by
  apply BitVec.eq_of_toNat_eq
  rw [lowField_toNat, encodeLow_toNat]
  omega

theorem decode_encodeLow_tick (now : TimeMs) : decode (encodeLow 1 now) = .tick now := by
  simp [decode, Laws.Format.cmdField_encodeLow, lowField_encodeLow]

theorem decode_encodeLow_reservedR {payload : BitVec 30} (h : payload ≠ 0) :
    decode (encodeLow 2 payload) = .reservedR payload := by
  simpa [decode, decodeR, Laws.Format.cmdField_encodeLow, lowField_encodeLow] using h

theorem decode_encodeLow_reserved (payload : BitVec 30) : decode (encodeLow 3 payload) = .reserved payload := by
  simp [decode, Laws.Format.cmdField_encodeLow, lowField_encodeLow]

/-- Settles O3: each format's fields are read back, and well-formedness is what selects the command again. -/
theorem decodeOfEncode : Obligations.DecodeOfEncode := by
  intro i hi
  cases i with
  | footer level hasQual qual lowBit =>
    have hlow : ((BitVec.ofBool lowBit).setWidth 20).toNat = lowBit.toNat := by
      rw [BitVec.toNat_setWidth_of_le (by decide), BitVec.toNat_ofBool]
    rw [encode, decode_encodeE, if_pos (hlow.trans_le lowBit.toNat_le)]
    simp
  | edge level hasQual qual width =>
    have hwidth : 1 < width.toNat := by simpa [Instr.wellFormed] using hi
    rw [encode, decode_encodeE, if_neg hwidth.not_ge]
  | tick now => exact decode_encodeLow_tick now
  | reset => decide
  | reservedR payload => exact decode_encodeLow_reservedR (by simpa [Instr.wellFormed] using hi)
  | reserved payload => exact decode_encodeLow_reserved payload

/-! ### The word built again from its fields -/

theorem encodeLow_lowField {word : CmdWord} {cmd : BitVec 2} (h : word.toNat / 2 ^ 30 = cmd.toNat) :
    encodeLow cmd (lowField word) = word := by
  apply BitVec.eq_of_toNat_eq
  rw [encodeLow_toNat, lowField_toNat]
  omega

/-- Every bit of a word with CMD = 00 is in a field of format E (R72). -/
theorem encodeE_fields {word : CmdWord} {width : Dur} (hcmd : word.toNat < 2 ^ 30)
    (hwidth : width.toNat = word.toNat % 2 ^ 20) :
    encodeE (word.getLsbD 29) (word.getLsbD 28) (qualField word) width = word := by
  apply BitVec.eq_of_toNat_eq
  rw [encodeE_toNat, getLsbD_toNat, getLsbD_toNat, qualField_toNat, hwidth]
  omega

theorem CommandRow.encode_eq {word : CmdWord} {i : Instr} (h : CommandRow word i) : encode i = word := by
  cases h with
  | footer hcmd hwidth =>
    refine encodeE_fields hcmd ?_
    rw [BitVec.toNat_setWidth_of_le (by decide), BitVec.toNat_ofBool, getLsbD_toNat]
    omega
  | edge hcmd hwidth => exact encodeE_fields hcmd (widthField_toNat word)
  | tick hfrom hto => exact encodeLow_lowField (by simp; omega)
  | reset hword => exact BitVec.eq_of_toNat_eq hword.symm
  | reservedR hfrom hto => exact encodeLow_lowField (by simp; omega)
  | reserved hfrom =>
    have := word.isLt
    exact encodeLow_lowField (by simp; omega)

theorem CommandRow.wellFormed {word : CmdWord} {i : Instr} (h : CommandRow word i) : i.wellFormed = true := by
  cases h with
  | edge hcmd hwidth => simpa [Instr.wellFormed] using hwidth
  | reservedR hfrom hto =>
    rw [Instr.wellFormed, decide_eq_true_iff, ne_eq, lowField_eq_zero_iff]
    omega
  | footer | tick | reset | reserved => rfl

/-- Settles O4: whichever row decodes the word, its command holds every bit of it. -/
theorem encodeOfDecode : Obligations.EncodeOfDecode :=
  fun word => ⟨(decode_row word).encode_eq, (decode_row word).wellFormed⟩

/-- Settles O2: the nine words are closed, so the decoder computes them. -/
theorem specWordsDecode : Obligations.SpecWordsDecode := by
  unfold Obligations.SpecWordsDecode
  decide

end Sys2Proof
end

section
/-! The obligations on the bucket ranges (41_bucket_table_classifier R94, R100; 10_state R25): ClassifyWidth's outcomes
as changes of the list of real buckets, and what each one does to the ranges. -/

namespace Sys2Proof.Machine

/-! ### The outcomes, on the list of real buckets -/

/-- A real bucket and what it is once it takes a width in: itself where its range holds the width, and widened where it
is the nearest candidate and no bucket holds it (R91, R93, R94). -/
inductive Takes (p : Params) (w : Dur) (live : List Bucket) (i : Nat) (b : Bucket) : Bucket → Prop where
  | contained (hmin : b.min ≤ w) (hmax : w ≤ b.max) : Takes p w live i b b
  | near {d : Nat} (hout : ∀ c ∈ live, ¬ (c.min ≤ w ∧ w ≤ c.max))
      (hdist : nearDistance p.nearRule (p.tol w).toNat w.toNat b = some d)
      (hnearest : ∀ j c e, live[j]? = some c → nearDistance p.nearRule (p.tol w).toNat w.toNat c = some e →
        d < e ∨ d = e ∧ i ≤ j) : Takes p w live i b (b.widen w)

/-- What ClassifyWidth does to the real buckets: nothing, a hit on one of them, or one more at the end (R97). -/
inductive Classified (p : Params) (w : Dur) (axis : Axis) (t : BucketTable) : Nibble × BucketTable → Prop where
  | kept (hw : w = 0 ∨ Config.maxBuckets ≤ t.n.toNat) : Classified p w axis t (Config.sentinel, t)
  | hit {i : Nat} {b c : Bucket} {t' : BucketTable} (hw : w ≠ 0) (here : t.live[i]? = some b)
      (takes : Takes p w t.live i b c) (hn : t'.n = t.n) (hlive : t'.live = t.live.set i (c.countHit axis)) :
      Classified p w axis t (BitVec.ofNat 4 i, t')
  | allocated {t' : BucketTable} (hw : w ≠ 0) (hroom : t.n.toNat < Config.maxBuckets)
      (hout : ∀ c ∈ t.live, ¬ (c.min ≤ w ∧ w ≤ c.max)) (hn : t'.n = t.n + 1)
      (hlive : t'.live = t.live ++ [Bucket.single w axis]) : Classified p w axis t (t.n, t')

theorem classifyWidth_classified (p : Params) (w : Dur) (axis : Axis) (t : BucketTable) :
    Classified p w axis t (classifyWidth p w axis t) := by
  obtain ⟨hw, heq⟩ | ⟨i, hw, hin, heq⟩ | ⟨i, d, hw, hout, hnear, heq⟩ | ⟨hw, hout, hfar, hroom, heq⟩ |
    ⟨hw, hout, hfar, hfull, heq⟩ := classifyWidth_cases p w axis t <;> rw [heq]
  · exact .kept (.inl hw)
  · obtain ⟨hi, hcontains, -⟩ := List.findIdx?_eq_some_iff_getElem.1 hin
    obtain ⟨hmin, hmax⟩ := Bucket.contains_iff.1 hcontains
    have here := List.getElem?_eq_getElem hi
    refine .hit hw here (.contained hmin hmax) rfl ?_
    rw [BucketTable.live_modify, BucketTable.entry_of_live here]
  · cases nearest_eq_iff.1 hnear with
    | found here dist hnearest =>
      refine .hit hw here (.near (findIdx?_contains_eq_none.1 hout) dist hnearest) rfl ?_
      rw [BucketTable.live_modify, BucketTable.entry_of_live here]
  · exact .allocated hw hroom (findIdx?_contains_eq_none.1 hout) rfl (BucketTable.live_allocate t _ hroom)
  · exact .kept (.inr hfull)

/-! ### The ranges -/

@[simp] theorem Bucket.countHit_min (b : Bucket) (axis : Axis) : (b.countHit axis).min = b.min := by cases axis <;> rfl
@[simp] theorem Bucket.countHit_max (b : Bucket) (axis : Axis) : (b.countHit axis).max = b.max := by cases axis <;> rfl
@[simp] theorem Bucket.single_min (w : Dur) (axis : Axis) : (Bucket.single w axis).min = w := by cases axis <;> rfl
@[simp] theorem Bucket.single_max (w : Dur) (axis : Axis) : (Bucket.single w axis).max = w := by cases axis <;> rfl

/-- A near candidate lies on one side of the width, and its widening reaches to the width and no further. -/
theorem widen_range {rule : NearRule} {tol d : Nat} {w : Dur} {b : Bucket}
    (hdist : nearDistance rule tol w.toNat b = some d) :
    w < b.min ∧ (b.widen w).min = w ∧ (b.widen w).max = b.max ∨
      b.max < w ∧ (b.widen w).min = b.min ∧ (b.widen w).max = w := by
  obtain ⟨hbelow, -, -⟩ | ⟨hmin, habove, -, -⟩ := nearDistance_eq_some.1 hdist
  · have heq : b.widen w = { b with min := w } := if_pos hbelow
    exact .inl ⟨hbelow, by rw [heq], by rw [heq]⟩
  · have heq : b.widen w = { b with max := w } := if_neg hmin.not_gt
    exact .inr ⟨habove, by rw [heq], by rw [heq]⟩

/-- A shorter reach is within every tolerance that a longer one is within, under either rule. -/
theorem nearReach_mono {rule : NearRule} {far near far' near' : Nat} (hfar : far ≤ far') (hnear : near ≤ near') :
    nearReach rule far near ≤ nearReach rule far' near' := by
  cases rule with
  | span => exact hfar
  | edge => exact hnear

section
variable {rule : NearRule} {tol d w : Nat} {a b : Bucket}

/-- Above the width, a bucket before a near candidate is a nearer one. -/
theorem nearDistance_of_between_below (hdist : nearDistance rule tol w b = some d) (hw : w < a.min.toNat)
    (hord : a.min.toNat ≤ a.max.toNat) (hb : a.max.toNat < b.min.toNat) (hordb : b.min.toNat ≤ b.max.toNat) :
    ∃ e < d, nearDistance rule tol w a = some e := by
  obtain ⟨hbelow, hreach, rfl⟩ | ⟨hmin, -, -, -⟩ := nearDistance_eq_some.1 hdist
  · exact ⟨_, by omega, nearDistance_eq_some.2 (.inl ⟨hw, (nearReach_mono (by omega) (by omega)).trans hreach, rfl⟩)⟩
  · omega

/-- Below the width, a bucket after a near candidate is a nearer one. -/
theorem nearDistance_of_between_above (hdist : nearDistance rule tol w b = some d) (hw : a.max.toNat < w)
    (hord : a.min.toNat ≤ a.max.toNat) (hb : b.max.toNat < a.min.toNat) (hordb : b.min.toNat ≤ b.max.toNat) :
    ∃ e < d, nearDistance rule tol w a = some e := by
  obtain ⟨hbelow, -, -⟩ | ⟨-, habove, hreach, rfl⟩ := nearDistance_eq_some.1 hdist
  · omega
  · exact ⟨_, by omega,
      nearDistance_eq_some.2 (.inr ⟨by omega, hw, (nearReach_mono (by omega) (by omega)).trans hreach, rfl⟩)⟩

end

section
variable {p : Params} {w : Dur} {live : List Bucket} {i : Nat} {b c : Bucket}

/-- Taking a width in only widens a range (R94). -/
theorem Takes.widens (h : Takes p w live i b c) : c.min ≤ b.min ∧ b.max ≤ c.max := by
  cases h with
  | contained => exact ⟨BitVec.le_refl _, BitVec.le_refl _⟩
  | near hout hdist =>
    obtain ⟨hw, hmin, hmax⟩ | ⟨hw, hmin, hmax⟩ := widen_range hdist <;> rw [hmin, hmax]
    · exact ⟨BitVec.le_of_lt hw, BitVec.le_refl _⟩
    · exact ⟨BitVec.le_refl _, BitVec.le_of_lt hw⟩

/-- A bucket between the width and the nearest candidate would be a nearer candidate, so the widened range meets no
other one (R25). -/
theorem Takes.apart (h : Takes p w live i b c) {a : Bucket} (ha : a ∈ live) (hord : a.min ≤ a.max)
    (hordb : b.min ≤ b.max) (hapart : b.max < a.min ∨ a.max < b.min) : c.max < a.min ∨ a.max < c.min := by
  cases h with
  | contained => exact hapart
  | @near d hout hdist hnearest =>
    have hfarther : ¬ ∃ e < d, nearDistance p.nearRule (p.tol w).toNat w.toNat a = some e := by
      rintro ⟨e, hlt, he⟩
      obtain ⟨j, hj⟩ := List.getElem?_of_mem ha
      have := hnearest j a e hj he
      omega
    have hwa : w < a.min ∨ a.max < w := by simpa [imp_iff_not_or] using hout a ha
    obtain ⟨hw, hmin, hmax⟩ | ⟨hw, hmin, hmax⟩ := widen_range hdist <;> rw [hmin, hmax]
    · exact hapart.imp_right fun hab =>
        hwa.resolve_left fun hwa => hfarther (nearDistance_of_between_below hdist hwa hord hab hordb)
    · exact hapart.imp_left fun hba =>
        hwa.resolve_right fun hwa => hfarther (nearDistance_of_between_above hdist hwa hord hba hordb)

end

/-- Settles O19: a hit widens one bucket, and an allocation comes after all of them. -/
theorem rangesOnlyWiden : Obligations.RangesOnlyWiden := by
  intro p w axis t i b hb
  have hlt := (List.getElem?_eq_some_iff.1 hb).1
  have hout := classifyWidth_classified p w axis t
  generalize classifyWidth p w axis t = x at hout
  cases hout with
  | kept => exact ⟨b, hb, BitVec.le_refl _, BitVec.le_refl _⟩
  | @hit j b' c t' hw here takes hn hlive =>
    show ∃ c, t'.live[i]? = some c ∧ _
    rw [hlive]
    by_cases hij : j = i
    · subst hij
      obtain rfl : b' = b := Option.some.inj (here.symm.trans hb)
      exact ⟨_, List.getElem?_set_self hlt, by simpa using takes.widens⟩
    · exact ⟨b, by rw [List.getElem?_set_ne hij, hb], BitVec.le_refl _, BitVec.le_refl _⟩
  | @allocated t' hw hroom hout hn hlive =>
    refine ⟨b, ?_, BitVec.le_refl _, BitVec.le_refl _⟩
    show t'.live[i]? = some b
    rw [hlive, List.getElem?_append_left hlt, hb]

/-! ### Disjointness -/

theorem pairwise_set {α : Type} {R : α → α → Prop} (hsymm : ∀ {x y}, R x y → R y x) {l : List α} {i : Nat} {b c : α}
    (hl : l.Pairwise R) (hb : l[i]? = some b) (hc : ∀ a ∈ l, R b a → R c a) : (l.set i c).Pairwise R := by
  induction l generalizing i with
  | nil => simp
  | cons x l ih =>
    obtain ⟨hx, hl⟩ := List.pairwise_cons.1 hl
    obtain ⟨hcx, hcl⟩ := List.forall_mem_cons.1 hc
    cases i with
    | zero =>
      obtain rfl : x = b := by simpa using hb
      exact List.pairwise_cons.2 ⟨fun a ha => hcl a ha (hx a ha), hl⟩
    | succ i =>
      have hb : l[i]? = some b := by simpa using hb
      refine List.pairwise_cons.2 ⟨fun a ha => ?_, ih hl hb hcl⟩
      obtain ha | rfl := List.mem_or_eq_of_mem_set ha
      · exact hx a ha
      · exact hsymm (hcx (hsymm (hx b (List.mem_of_getElem? hb))))

/-- A real bucket after a classification is an old one, an old one that took the width in, or the new one. -/
theorem Classified.forall_live {p : Params} {w : Dur} {axis : Axis} {t : BucketTable} {x : Nibble × BucketTable}
    {P : Bucket → Prop} (h : Classified p w axis t x) (hold : ∀ b ∈ t.live, P b)
    (hhit : w ≠ 0 → ∀ i b c, b ∈ t.live → Takes p w t.live i b c → P (c.countHit axis))
    (hnew : w ≠ 0 → P (Bucket.single w axis)) : ∀ b ∈ x.2.live, P b := by
  cases h with
  | kept => exact hold
  | hit hw here takes hn hlive =>
    rw [hlive]
    intro a ha
    obtain ha | rfl := List.mem_or_eq_of_mem_set ha
    · exact hold a ha
    · exact hhit hw _ _ _ (List.mem_of_getElem? here) takes
  | allocated hw hroom hout hn hlive =>
    rw [hlive]
    simpa [or_imp, forall_and] using ⟨hold, hnew hw⟩

theorem BucketTable.n_allocate_toNat {t t' : BucketTable} (hroom : t.n.toNat < Config.maxBuckets)
    (hn : t'.n = t.n + 1) : t'.n.toNat = t.n.toNat + 1 := by
  have hroom : t.n.toNat < 8 := hroom
  rw [hn, BitVec.toNat_add_of_lt (y := 1) (show t.n.toNat + 1 < 2 ^ 4 by omega)]
  rfl

/-- ClassifyWidth keeps the ranges disjoint (R25, R100). -/
theorem Classified.disjoint {p : Params} {w : Dur} {axis : Axis} {t : BucketTable} {x : Nibble × BucketTable}
    (h : Classified p w axis t x) (ht : t.Disjoint) : x.2.Disjoint := by
  obtain ⟨hcount, hord, hapart⟩ := ht
  have hord' : ∀ b ∈ x.2.live, b.min ≤ b.max := by
    refine h.forall_live hord (fun _ i b c hb takes => ?_) fun _ => ?_
    · obtain ⟨hmin, hmax⟩ := takes.widens
      simpa using BitVec.le_trans (BitVec.le_trans hmin (hord b hb)) hmax
    · simp
  cases h with
  | kept => exact ⟨hcount, hord, hapart⟩
  | hit hw here takes hn hlive =>
    refine ⟨by simpa [hn] using hcount, hord', ?_⟩
    rw [hlive]
    refine pairwise_set Or.symm hapart here fun a ha hba => ?_
    simpa using takes.apart ha (hord a ha) (hord _ (List.mem_of_getElem? here)) hba
  | allocated hw hroom hout hn hlive =>
    refine ⟨(BucketTable.n_allocate_toNat hroom hn).trans_le hroom, hord', ?_⟩
    rw [hlive]
    refine List.pairwise_append.2 ⟨hapart, List.pairwise_singleton _ _, fun a ha c hc => ?_⟩
    rw [List.mem_singleton.1 hc, Bucket.single_min, Bucket.single_max]
    simpa [imp_iff_not_or, or_comm] using hout a ha

/-- Settles O18: of the outcomes of ClassifyWidth, the nearest candidate's is the one that needs an argument. -/
theorem rangesStayDisjoint : Obligations.RangesStayDisjoint :=
  fun p w axis t => (classifyWidth_classified p w axis t).disjoint

/-- Settles O13: ClassifyWidth tests for the width 0 before it looks at the table (R97). -/
theorem zeroWidthIsSentinel : Obligations.ZeroWidthIsSentinel := classifyWidth_zero

end Sys2Proof.Machine
end

section
/-! What a classification keeps of a table: the ranges, the widths, and the counters with their bounds
(10_state R22-R25, 41_bucket_table_classifier R98, R100, R101). -/

namespace Sys2Proof.Machine

/-! ### The counters of a bucket -/

section
variable {p : Params} {live : List Bucket} {i : Nat} {b c : Bucket} {w : Dur} {axis a : Axis}

theorem Bucket.count_widen : (b.widen w).count a = b.count a := by
  rw [Bucket.widen]
  split <;> cases a <;> rfl

theorem Bucket.ccnt_widen : (b.widen w).ccnt = b.ccnt := by
  rw [Bucket.widen]
  split <;> rfl

theorem Takes.count_eq (h : Takes p w live i b c) : c.count a = b.count a := by
  cases h with
  | contained => rfl
  | near => exact Bucket.count_widen

theorem Takes.ccnt_eq (h : Takes p w live i b c) : c.ccnt = b.ccnt := by
  cases h with
  | contained => rfl
  | near => exact Bucket.ccnt_widen

/-- A widened range reaches down to the old minimum or to the width. -/
theorem Takes.two_le_min (h : Takes p w live i b c) (hw : 2 ≤ w.toNat) (hb : 2 ≤ b.min.toNat) :
    2 ≤ c.min.toNat := by
  cases h with
  | contained => exact hb
  | near hout hdist =>
    obtain ⟨-, hmin, -⟩ | ⟨-, hmin, -⟩ := widen_range hdist <;> rw [hmin]
    · exact hw
    · exact hb

theorem Bucket.count_countHit : (b.countHit axis).count a = if a = axis then b.count a + 1 else b.count a := by
  cases axis <;> cases a <;> rfl

theorem Bucket.ccnt_countHit : (b.countHit axis).ccnt = b.ccnt + 1 := by cases axis <;> rfl

theorem Bucket.count_single : (Bucket.single w axis).count a = if a = axis then 1 else 0 := by
  cases axis <;> cases a <;> rfl

/-- One more in a counter that is not full. -/
theorem count_add_one_toNat {v : Count} (h : v.toNat + 1 < 2 ^ 32) : (v + 1).toNat = v.toNat + 1 :=
  BitVec.toNat_add_of_lt (y := 1) h

theorem Bucket.count_countHit_toNat (h : (b.count a).toNat + 1 < 2 ^ 32) :
    ((b.countHit axis).count a).toNat = (b.count a).toNat + if a = axis then 1 else 0 := by
  rw [Bucket.count_countHit]
  split_ifs
  · exact count_add_one_toNat h
  · rfl

end

/-! ### The sum of an axis (R101) -/

theorem sum_map_set {α : Type} {f : α → Nat} {l : List α} {i : Nat} {b c : α} (hb : l[i]? = some b) :
    ((l.set i c).map f).sum + f b = (l.map f).sum + f c := by
  induction l generalizing i with
  | nil => simp at hb
  | cons x l ih =>
    cases i with
    | zero =>
      obtain rfl : x = b := by simpa using hb
      simp only [List.set_cons_zero, List.map_cons, List.sum_cons]
      omega
    | succ i =>
      have := ih (i := i) (by simpa using hb)
      simp only [List.set_cons_succ, List.map_cons, List.sum_cons]
      omega

theorem count_le_sum_axisCounts {live : List Bucket} {b : Bucket} (hb : b ∈ live) (a : Axis) :
    (b.count a).toNat ≤ (axisCounts live a).sum :=
  List.le_sum_of_mem (List.mem_map_of_mem hb)

/-- The combined counter counts both axes (R24). -/
def Bucket.Combined (b : Bucket) : Prop := b.ccnt.toNat = (b.count .pulse).toNat + (b.count .space).toNat

/-- What the invariant says of the table, with the bound of each axis's counts left open. -/
structure BucketTable.Sound (t : BucketTable) (bound : Axis → Nat) : Prop where
  disjoint : t.Disjoint
  widths : ∀ b ∈ t.live, 2 ≤ b.min.toNat
  combined : ∀ b ∈ t.live, b.Combined
  counts : ∀ a, (axisCounts t.live a).sum ≤ bound a

section
variable {b : Bucket} {axis : Axis}

theorem Bucket.Combined.countHit (h : b.Combined) (hsmall : ∀ a, (b.count a).toNat < 2 ^ 31) :
    (b.countHit axis).Combined := by
  have hpulse := hsmall .pulse
  have hspace := hsmall .space
  rw [Bucket.Combined] at h
  rw [Bucket.Combined, Bucket.ccnt_countHit, count_add_one_toNat (by omega), Bucket.count_countHit_toNat (by omega),
    Bucket.count_countHit_toNat (by omega)]
  cases axis <;> simp <;> omega

theorem Bucket.single_combined (w : Dur) (axis : Axis) : (Bucket.single w axis).Combined := by
  cases axis <;> rfl

end

section
variable {p : Params} {w : Dur} {axis : Axis} {t : BucketTable} {x : Nibble × BucketTable} {bound bound' : Axis → Nat}

/-- A classification adds at most one to the counts of its own axis (R98). -/
theorem Classified.counts (h : Classified p w axis t x) (hsmall : ∀ b ∈ t.live, ∀ a, (b.count a).toNat < 2 ^ 31)
    (a : Axis) : (axisCounts x.2.live a).sum ≤ (axisCounts t.live a).sum + if a = axis then 1 else 0 := by
  cases h with
  | kept => exact Nat.le_add_right _ _
  | @hit i b c t' hw here takes hn hlive =>
    have hcount := hsmall b (List.mem_of_getElem? here) a
    have hsum := sum_map_set (f := fun b => (b.count a).toNat) (c := c.countHit axis) here
    simp only [Bucket.count_countHit_toNat (show (c.count a).toNat + 1 < 2 ^ 32 by rw [takes.count_eq]; omega),
      takes.count_eq] at hsum
    rw [hlive, axisCounts, axisCounts]
    omega
  | @allocated t' hw hroom hout hn hlive =>
    rw [hlive, axisCounts, axisCounts, List.map_append, List.sum_append, List.map_singleton, List.sum_singleton,
      Bucket.count_single]
    split_ifs <;> simp

/-- A classification keeps a sound table sound, with at most one more on the axis that it counts. -/
theorem Classified.sound (h : Classified p w axis t x) (ht : t.Sound bound) (hw : w ≠ 0 → 2 ≤ w.toNat)
    (hsmall : ∀ a, bound a < 2 ^ 31) (hbound : ∀ a, bound a + (if a = axis then 1 else 0) ≤ bound' a) :
    x.2.Sound bound' := by
  have hbucket : ∀ b ∈ t.live, ∀ a, (b.count a).toNat < 2 ^ 31 := fun b hb a =>
    ((count_le_sum_axisCounts hb a).trans (ht.counts a)).trans_lt (hsmall a)
  refine ⟨h.disjoint ht.disjoint, ?widths, ?combined, fun a => ?counts⟩
  case widths =>
    refine h.forall_live ht.widths (fun hne i b c hb takes => ?_) fun hne => ?_
    · simpa using takes.two_le_min (hw hne) (ht.widths b hb)
    · simpa using hw hne
  case combined =>
    refine h.forall_live ht.combined (fun hne i b c hb takes => ?_) fun _ => Bucket.single_combined w axis
    refine Bucket.Combined.countHit ?_ fun a => takes.count_eq ▸ hbucket b hb a
    simpa [Bucket.Combined, takes.count_eq, takes.ccnt_eq] using ht.combined b hb
  case counts =>
    have hcounts := h.counts hbucket a
    have ha := ht.counts a
    have hba := hbound a
    omega

/-- Real buckets stay, and the index a classification gives names one of them or is the sentinel (R27). -/
theorem Classified.names (h : Classified p w axis t x) (ht : t.Disjoint) :
    t.n.toNat ≤ x.2.n.toNat ∧ x.2.Names x.1 := by
  cases h with
  | kept => exact ⟨le_rfl, .inr rfl⟩
  | @hit i b c t' hw here takes hn hlive =>
    have hi := (List.getElem?_eq_some_iff.1 here).1
    rw [BucketTable.live_length t ht.count_le] at hi
    refine ⟨hn ▸ le_rfl, .inl ?_⟩
    rw [hn]
    exact (BitVec.toNat_ofNat _ _).trans_lt ((Nat.mod_le _ _).trans_lt hi)
  | @allocated t' hw hroom hout hn hlive =>
    have hn' := BucketTable.n_allocate_toNat hroom hn
    exact ⟨hn' ▸ Nat.le_succ _, .inl (hn' ▸ Nat.lt_succ_self _)⟩

/-- After a width other than 0 there is a bucket. -/
theorem Classified.n_pos (h : Classified p w axis t x) (hw : w ≠ 0) : 0 < x.2.n.toNat := by
  cases h with
  | kept hkept => exact (Nat.zero_lt_succ 7).trans_le (hkept.resolve_left hw)
  | @hit i b c t' hne here takes hn hlive =>
    have hi : i < t.live.length := (List.getElem?_eq_some_iff.1 here).1
    have hle : t.live.length ≤ t.n.toNat := List.length_take_le _ _
    rw [hn]
    omega
  | @allocated t' hne hroom hout hn hlive =>
    rw [BucketTable.n_allocate_toNat hroom hn]
    omega

end

/-! ### A pair -/

theorem BucketTable.Names.mono {t t' : BucketTable} {f : Nibble} (h : t.Names f) (hn : t.n.toNat ≤ t'.n.toNat) :
    t'.Names f :=
  h.imp_left fun hf => hf.trans_le hn

section
variable {p : Params} {pulse space : Dur} {t : BucketTable} {m : Nat}
  (ht : t.Sound fun _ => m) (hm : m < 2 ^ 30) (hpulse : 2 ≤ pulse.toNat) (hspace : space ≠ 0 → 2 ≤ space.toNat)
include ht

include hm hpulse hspace in
/-- Classifying a half-bit adds at most one to the counts of each axis (R99, R101). -/
theorem BucketTable.Sound.classifyPair : (classifyPair p pulse space t).2.Sound fun _ => m + 1 := by
  have hfirst : (classifyWidth p pulse .pulse t).2.Sound fun a => m + if a = .pulse then 1 else 0 :=
    (classifyWidth_classified p pulse .pulse t).sound ht (fun _ => hpulse) (fun _ => by omega) fun _ => le_rfl
  refine (classifyWidth_classified p space .space _).sound hfirst hspace (fun a => ?_) fun a => ?_
  · cases a <;> simp <;> omega
  · cases a <;> simp

theorem BucketTable.Sound.classifyPair_names :
    t.n.toNat ≤ (Machine.classifyPair p pulse space t).2.n.toNat ∧
      (Machine.classifyPair p pulse space t).2.Names (hi (Machine.classifyPair p pulse space t).1) ∧
      (Machine.classifyPair p pulse space t).2.Names (lo (Machine.classifyPair p pulse space t).1) := by
  have hfirst := classifyWidth_classified p pulse .pulse t
  have hsecond := classifyWidth_classified p space .space (classifyWidth p pulse .pulse t).2
  obtain ⟨hn, hpulse⟩ := hfirst.names ht.disjoint
  obtain ⟨hn', hspace⟩ := hsecond.names (hfirst.disjoint ht.disjoint)
  refine ⟨hn.trans hn', ?_, ?_⟩
  · rw [Machine.classifyPair, hi_pack]
    exact hpulse.mono hn'
  · rw [Machine.classifyPair, lo_pack]
    exact hspace

end

theorem classifyPair_n_pos {p : Params} {pulse space : Dur} {t : BucketTable} (ht : t.Disjoint) (hpulse : pulse ≠ 0) :
    0 < (classifyPair p pulse space t).2.n.toNat :=
  have hfirst := classifyWidth_classified p pulse .pulse t
  have hsecond := classifyWidth_classified p space .space (classifyWidth p pulse .pulse t).2
  (hfirst.n_pos hpulse).trans_le (hsecond.names (hfirst.disjoint ht)).1

end Sys2Proof.Machine
end

section
/-! What a command does in each state of the session controller (45_capture_buffer_controller R181-R188): one inversion
lemma for `exec`, and the frame of every command in CAPTURING. -/

namespace Sys2Proof.Machine

/-! ### In CAPTURING -/

/-- What a command in CAPTURING leaves: the clocks, the status registers and the agenda, and either a live session, or
one long enough for FIN, or IDLE with one report more (R180, R182, R184). -/
structure Captured (s t : State) : Prop where
  clock : SameClock s t
  outcome : t.fsm = .capturing ∧ t.reports = s.reports ∨
    t.fsm = .finalizing ∧ 64 ≤ t.len.toNat ∧ t.reports = s.reports ∨
    t.fsm = .idle ∧ ∃ r, t.reports = s.reports ++ [r] ∧ r.Shaped

theorem SameClock.refl (s : State) : SameClock s s := ⟨rfl, rfl, rfl, rfl, rfl, rfl⟩

theorem State.briefReport_shaped {s : State} {status : ReportStatus} (hok : status ≠ .ok)
    (hnoise : status ≠ .noiseNoRepeat) : (s.briefReport status).Shaped := by
  simp [Report.Shaped, hok, hnoise]

theorem guardShort_captured (s : State) : Captured s (guardShort configured s) := by
  rcases guardShort_cases configured s with ⟨-, h⟩ | ⟨hlong, h⟩ <;> rw [h]
  · exact ⟨s.reportAndIdle_sameClock _, .inr (.inr ⟨rfl, _, rfl, s.briefReport_shaped (by decide) (by decide)⟩)⟩
  · exact ⟨(SameClock.refl s).setFsm _, .inr (.inl ⟨rfl, hlong, rfl⟩)⟩

section
variable {s t u : State} {w : Dur}

theorem Captured.of_sameClock (h : Captured u t) (hclock : SameClock s u) (hreports : u.reports = s.reports) :
    Captured s t :=
  ⟨hclock.trans h.clock, hreports ▸ h.outcome⟩

theorem appendPending_frame (h : appendPending configured w s = .ok t) :
    SameClock s t ∧ t.reports = s.reports ∧ t.fsm = s.fsm := by
  obtain ⟨-, rfl⟩ := appendPending_eq_ok.1 h
  exact ⟨⟨rfl, rfl, rfl, rfl, rfl, rfl⟩, rfl, rfl⟩

theorem endSession_captured {reason : EndReason} (h : endSession configured reason s = .ok t) : Captured s t := by
  obtain ⟨-, rfl⟩ | ⟨-, u, hu, rfl⟩ := endSession_eq_ok.1 h
  · exact (guardShort_captured _).of_sameClock ⟨rfl, rfl, rfl, rfl, rfl, rfl⟩ rfl
  · obtain ⟨hclock, hreports, -⟩ := appendPending_frame hu
    exact (guardShort_captured u).of_sameClock ⟨hclock.timeMs, hclock.startMs, hclock.lastEdgeMs, hclock.cmdErr,
      hclock.dropCount, hclock.agenda⟩ hreports

theorem edgeCapturing_captured (h : edgeCapturing configured w s = .ok t) (hfsm : s.fsm = .capturing) :
    Captured s t := by
  obtain ⟨-, hend⟩ | ⟨-, -, hspace⟩ | ⟨-, -, rfl⟩ := edgeCapturing_eq_ok.1 h
  · exact endSession_captured hend
  · obtain ⟨u, hu, hfull⟩ := edgeSpace_eq_ok.1 hspace
    obtain ⟨hclock, hreports, hfsm'⟩ := appendPending_frame hu
    obtain ⟨-, hend⟩ | ⟨-, rfl⟩ := hfull
    · exact (endSession_captured hend).of_sameClock hclock hreports
    · exact ⟨hclock, .inl ⟨hfsm'.trans hfsm, hreports⟩⟩
  · exact ⟨⟨rfl, rfl, rfl, rfl, rfl, rfl⟩, .inl ⟨hfsm, rfl⟩⟩

end

/-! ### Every command -/

/-- The test that an EDGE in IDLE must pass to start a session (R184). -/
def StartsSession (level : Bool) (w : Dur) : Prop :=
  level = true ∧ configured.debounceFloor < w.toNat ∧ w.toNat < configured.timeoutCeiling

/-- What FOOTER and EDGE lead to in CAPTURING, with `last_edge_ms` already written (R184, R185). -/
inductive InCapturing (s : State) : Instr → State → Prop where
  | footer {l q v b t} (hend : endSession configured .footer s = .ok t) : InCapturing s (.footer l q v b) t
  | edge {l q v w t} (hedge : edgeCapturing configured w s = .ok t) : InCapturing s (.edge l q v w) t

theorem InCapturing.captured {s t : State} {i : Instr} (h : InCapturing s i t) (hfsm : s.fsm = .capturing) :
    Captured s t := by
  cases h with
  | footer hend => exact endSession_captured hend
  | edge hedge => exact edgeCapturing_captured hedge hfsm

/-- What each command leads to from a state, in each state of the session controller (R184-R188). -/
inductive Ran (s : State) : Instr → State → Prop where
  | footerIdle {l q v b} (hfsm : s.fsm = .idle) : Ran s (.footer l q v b) s
  | capturing {i t} (hfsm : s.fsm = .capturing) (hcall : InCapturing { s with lastEdgeMs := s.timeMs } i t) : Ran s i t
  | footerFinalizing {l q v b} (hfsm : s.fsm = .finalizing) : Ran s (.footer l q v b) s.countDrop
  | edgeStarts {l q v w} (hfsm : s.fsm = .idle) (hband : StartsSession l w) : Ran s (.edge l q v w) (sessionStart w s)
  | edgeIgnored {l q v w} (hfsm : s.fsm = .idle) (hband : ¬ StartsSession l w) : Ran s (.edge l q v w) s
  | edgeFinalizing {l q v w} (hfsm : s.fsm = .finalizing) : Ran s (.edge l q v w) s.countDrop
  | tick (now : TimeMs) : Ran s (.tick now) { s with timeMs := now }
  | tickAbandons (now : TimeMs) (hfsm : s.fsm = .capturing) : Ran s (.tick now) (abandon { s with timeMs := now })
  | reset : Ran s .reset (resetBlock s)
  | reservedR (x : BitVec 30) : Ran s (.reservedR x) s.setCmdErr
  | reserved (x : BitVec 30) : Ran s (.reserved x) s.setCmdErr

theorem footer_ran {l q : Bool} {v : BitVec 8} {b : Bool} {s t : State} (h : footer configured s = .next t) :
    Ran s (.footer l q v b) t := by
  cases hfsm : s.fsm with
  | idle =>
    rw [footer_of_idle hfsm, Host.Outcome.next.injEq] at h
    exact h ▸ .footerIdle hfsm
  | capturing =>
    rw [footer_of_capturing hfsm, answer_eq_next] at h
    exact .capturing hfsm (.footer h)
  | finalizing =>
    rw [footer_of_finalizing hfsm, Host.Outcome.next.injEq] at h
    exact h ▸ .footerFinalizing hfsm

theorem edge_ran {l q : Bool} {v : BitVec 8} {w : Dur} {s t : State} (h : edge configured l w s = .next t) :
    Ran s (.edge l q v w) t := by
  cases hfsm : s.fsm with
  | idle =>
    rw [edge_of_idle hfsm, Host.Outcome.next.injEq, edgeIdle] at h
    split_ifs at h with hband
    · exact h ▸ .edgeStarts hfsm hband
    · exact h ▸ .edgeIgnored hfsm hband
  | capturing =>
    rw [edge_of_capturing hfsm, answer_eq_next] at h
    exact .capturing hfsm (.edge h)
  | finalizing =>
    rw [edge_of_finalizing hfsm, Host.Outcome.next.injEq] at h
    exact h ▸ .edgeFinalizing hfsm

theorem tick_ran (now : TimeMs) (s : State) : Ran s (.tick now) (tick configured now s) := by
  rw [tick]
  split_ifs with hfires
  · exact .tickAbandons now (watchdogFires_iff.1 hfires).1
  · exact .tick now

/-- What a command answered is one of the outcomes of its row. -/
theorem exec_ran {i : Instr} {s t : State} (h : exec i s = .next t) : Ran s i t := by
  cases i with
  | footer l q v b => exact footer_ran h
  | edge l q v w => exact edge_ran h
  | tick now =>
    rw [exec_tick, Host.Outcome.next.injEq] at h
    exact h ▸ tick_ran now s
  | reset =>
    rw [exec_reset, Host.Outcome.next.injEq] at h
    exact h ▸ .reset
  | reservedR x =>
    rw [(reservedWordSetsErrorOnly x s).2, Host.Outcome.next.injEq] at h
    exact h ▸ .reservedR x
  | reserved x =>
    rw [(reservedWordSetsErrorOnly x s).1, Host.Outcome.next.injEq] at h
    exact h ▸ .reserved x

/-! ### The statements about single commands (R184-R188) -/

/-- Settles O9: the reset block is the reset state under the two lists that stay. -/
theorem resetCommandResult : Obligations.ResetCommandResult := exec_reset

/-- Settles O39: an even edge is the last of the three things an edge in CAPTURING can do. -/
theorem evenEdgeIsRemembered : Obligations.EvenEdgeIsRemembered := by
  intro l q v w s hfsm hpend hceiling
  rw [exec_edge, edge_of_capturing hfsm, answer_eq_next]
  exact edgeCapturing_eq_ok.2 (.inr (.inr ⟨hceiling, hpend, rfl⟩))

/-- Settles O41: such an edge is EndSession's call for the reason CEILING, which knows nothing of its width. -/
theorem ceilingEdgeEndsSession : Obligations.CeilingEdgeEndsSession := by
  intro l q v w s hfsm hceiling hroom hwf
  obtain ⟨t, ht, hended⟩ := endSessionResult .ceiling { s with lastEdgeMs := s.timeMs } hwf hroom
  refine ⟨t, ?_, hended⟩
  rw [exec_edge, edge_of_capturing hfsm, answer_eq_next]
  exact edgeCapturing_eq_ok.2 (.inl ⟨hceiling, ht⟩)

/-- Settles O42: EDGE's case of FINALIZING is the counted drop. -/
theorem edgeWhileFinalizingIsDropped : Obligations.EdgeWhileFinalizingIsDropped := by
  intro l q v w s hfsm
  rw [exec_edge, edge_of_finalizing hfsm, State.countDrop_eq]

theorem edge_level_irrelevant {p : Params} {s : State} (hfsm : s.fsm ≠ .idle) (l l' : Bool) (w : Dur) :
    edge p l w s = edge p l' w s := by
  cases h : s.fsm with
  | idle => exact absurd h hfsm
  | capturing => rw [edge_of_capturing h, edge_of_capturing h]
  | finalizing => rw [edge_of_finalizing h, edge_of_finalizing h]

/-- Settles O59: neither meaning is given Q and QUAL, FOOTER's is given no operand, and EDGE's reads L in IDLE alone. -/
theorem ignoredOperandsDoNotMatter : Obligations.IgnoredOperandsDoNotMatter := by
  refine ⟨fun l q q' v v' w s => ?_, fun l l' q v w s hfsm => ?_, fun l l' q q' v v' b b' s => ?_⟩
  · rw [exec_edge, exec_edge]
  · rw [exec_edge, exec_edge, edge_level_irrelevant hfsm]
  · rw [exec_footer, exec_footer]

/-! ### The statements about every command -/

@[simp] theorem abandon_cmdErr (s : State) : (abandon s).cmdErr = s.cmdErr := rfl

theorem abandon_reports (s : State) : ∃ r, (abandon s).reports = s.reports ++ [r] ∧ r.Shaped :=
  ⟨_, rfl, State.briefReport_shaped (by decide) (by decide)⟩

theorem Captured.long {s t : State} (h : Captured s t) (ht : t.fsm = .finalizing) : 64 ≤ t.len.toNat := by
  obtain ⟨hfsm, -⟩ | ⟨-, hlong, -⟩ | ⟨hfsm, -⟩ := h.outcome
  · simp [hfsm] at ht
  · exact hlong
  · simp [hfsm] at ht

/-- One report at most, and after it the block is in IDLE. -/
theorem Captured.report {s t : State} (h : Captured s t) :
    t.reports = s.reports ∨ ∃ r, t.reports = s.reports ++ [r] ∧ r.Shaped ∧ t.fsm = .idle := by
  obtain ⟨-, hsame⟩ | ⟨-, -, hsame⟩ | ⟨hfsm, r, hr, hshaped⟩ := h.outcome
  · exact .inl hsame
  · exact .inl hsame
  · exact .inr ⟨r, hr, hshaped, hfsm⟩

section
variable {i : Instr} {s t : State}

/-- A command emits at most one report, and after it the block is in IDLE (R180). -/
theorem Ran.report (h : Ran s i t) :
    t.reports = s.reports ∨ ∃ r, t.reports = s.reports ++ [r] ∧ r.Shaped ∧ t.fsm = .idle := by
  cases h with
  | capturing hfsm hcall => exact (hcall.captured hfsm).report
  | tickAbandons now =>
    obtain ⟨r, hr, hshaped⟩ := abandon_reports { s with timeMs := now }
    exact .inr ⟨r, hr, hshaped, rfl⟩
  | footerIdle | footerFinalizing | edgeStarts | edgeIgnored | edgeFinalizing | tick | reset | reservedR | reserved =>
    exact .inl rfl

theorem Ran.agenda (h : Ran s i t) : t.agenda = s.agenda := by
  cases h with
  | capturing hfsm hcall => exact (hcall.captured hfsm).clock.agenda
  | footerIdle | footerFinalizing | edgeStarts | edgeIgnored | edgeFinalizing | tick | tickAbandons | reset | reservedR
  | reserved => rfl

end

/-- Settles O60: reports are only ever appended. -/
theorem commandsLeaveInterfaceAlone : Obligations.CommandsLeaveInterfaceAlone := by
  intro i s t h
  refine ⟨(exec_ran h).agenda, ?_⟩
  obtain hsame | ⟨r, hr, -⟩ := (exec_ran h).report
  · rw [hsame]
  · exact ⟨[r], hr.symm⟩

/-- Settles O54: in IDLE an edge at most starts a session, and in CAPTURING only a session past the guard waits for
FIN. -/
theorem finalizingNeedsHalfbits : Obligations.FinalizingNeedsHalfbits := by
  intro i s t h hs ht
  cases exec_ran h with
  | capturing hfsm hcall => exact ⟨hfsm, (hcall.captured hfsm).long ht⟩
  | edgeStarts | tickAbandons | reset => cases ht
  | footerIdle | footerFinalizing | edgeIgnored | edgeFinalizing | tick | reservedR | reserved => exact absurd ht hs

/-- Settles O55: FOOTER and EDGE are counted drops, TICK writes the time without a look at the watchdog, and a reserved
word sets `cmd_err`. -/
theorem finalizingIsolatesSession : Obligations.FinalizingIsolatesSession := by
  intro i s t hs hi h
  cases exec_ran h with
  | footerFinalizing | edgeFinalizing | tick | reservedR | reserved => simp [hs]
  | reset => exact absurd rfl hi
  | footerIdle hfsm | capturing hfsm | edgeStarts hfsm | edgeIgnored hfsm | tickAbandons _ hfsm => simp [hs] at hfsm

/-- Settles O56: the start band is the one test between an EDGE in IDLE and a session. -/
theorem idleIsQuiescent : Obligations.IdleIsQuiescent := by
  intro i s t hs h hi hquiet
  cases exec_ran h with
  | footerIdle | edgeIgnored | tick | reservedR | reserved => simp [hs]
  | edgeStarts hfsm hband =>
    obtain ⟨rfl, hwidth⟩ := hband
    exact absurd hwidth (hquiet _ _ _ rfl)
  | reset => exact absurd rfl hi
  | capturing hfsm | footerFinalizing hfsm | edgeFinalizing hfsm | tickAbandons _ hfsm => simp [hs] at hfsm

/-- Settles O57: the two reserved rows set the flag, and every other row but RESET's keeps it. -/
theorem commandErrorIsSticky : Obligations.CommandErrorIsSticky := by
  intro i s t hi h
  cases exec_ran h with
  | capturing hfsm hcall =>
    have hsame : t.cmdErr = s.cmdErr := (hcall.captured hfsm).clock.cmdErr
    cases hcall with
    | footer | edge => simp [hsame]
  | reset => exact absurd rfl hi
  | footerIdle | footerFinalizing | edgeStarts | edgeIgnored | edgeFinalizing | tick | tickAbandons | reservedR
  | reserved => simp

/-- Settles O58: each of the three registers is written by the rows of one case alone. -/
theorem onlyTickMovesTime : Obligations.OnlyTickMovesTime := by
  intro i s t hi h
  cases exec_ran h with
  | capturing hfsm hcall =>
    have hclock := (hcall.captured hfsm).clock
    exact ⟨fun _ => hclock.timeMs, fun _ => hclock.dropCount, fun _ => hclock.startMs⟩
  | footerFinalizing hfsm | edgeFinalizing hfsm => exact ⟨fun _ => rfl, fun hs => absurd hfsm hs, fun _ => rfl⟩
  | edgeStarts hfsm => exact ⟨fun _ => rfl, fun _ => rfl, fun hs => absurd hfsm hs⟩
  | tick now | tickAbandons now => exact ⟨fun hnot => absurd rfl (hnot now), fun _ => rfl, fun _ => rfl⟩
  | reset => exact absurd rfl hi
  | footerIdle | edgeIgnored | reservedR | reserved => exact ⟨fun _ => rfl, fun _ => rfl, fun _ => rfl⟩

end Sys2Proof.Machine
end

section
/-! The invariant (10_state R22-R27, 41_bucket_table_classifier R100, R101, 45_capture_buffer_controller R191): the part
of it that does not speak of the controller's state, and what every command does to it. -/

namespace Sys2Proof.Machine

/-! ### The invariant without the controller's state -/

/-- What the invariant says of a session whatever `fsm` is. -/
structure State.Held (s : State) : Prop where
  table : s.table.Sound fun _ => s.len.toNat
  pending : s.pendValid = true → 2 ≤ s.pendW.toNat
  buf_wf : Memory.wf s.buf = true
  buf_within : ∀ c ∈ s.buf, c.1 < s.len.toNat
  fields : ∀ k < s.len.toNat, s.table.Names (hi (Memory.read s.buf k)) ∧ s.table.Names (lo (Memory.read s.buf k))
  len_le : s.len.toNat ≤ 512

/-- What the invariant says of a session in each state of the controller (R191). -/
structure State.Placed (s : State) : Prop where
  idle : s.fsm = .idle → s.Cleared
  capturing : s.fsm = .capturing →
    s.len.toNat < 512 ∧ (s.len = 0 → s.pendValid = true) ∧ (s.len ≠ 0 → s.table.n ≠ 0)
  finalizing : s.fsm = .finalizing → 64 ≤ s.len.toNat ∧ s.table.n ≠ 0 ∧ s.pendValid = false

theorem State.inv_iff {s : State} : s.Inv ↔ s.Held ∧ s.Placed := by
  constructor
  · intro h
    exact ⟨⟨⟨h.table, h.widths, h.combined, h.counts⟩, h.pending, h.buf_wf, h.buf_within, h.fields, h.len_le⟩,
      ⟨h.idle, h.capturing, h.finalizing⟩⟩
  · rintro ⟨⟨⟨hdisjoint, hwidths, hcombined, hcounts⟩, hpending, hwf, hwithin, hfields, hlen⟩,
      ⟨hidle, hcapturing, hfinalizing⟩⟩
    exact ⟨hdisjoint, hwidths, hpending, hcombined, hcounts, hwf, hwithin, hfields, hlen, hidle, hcapturing,
      hfinalizing⟩

theorem State.Held.inv_capturing {s : State} (hs : s.Held) (hfsm : s.fsm = .capturing) (hroom : s.len.toNat < 512)
    (hfirst : s.len = 0 → s.pendValid = true) (hbucket : s.len ≠ 0 → s.table.n ≠ 0) : s.Inv :=
  State.inv_iff.2 ⟨hs, by simp [hfsm], fun _ => ⟨hroom, hfirst, hbucket⟩, by simp [hfsm]⟩

/-- The five registers of a session, which alone the invariant speaks of besides `fsm`. -/
structure SameSession (s t : State) : Prop where
  table : t.table = s.table
  buf : t.buf = s.buf
  len : t.len = s.len
  pendValid : t.pendValid = s.pendValid
  pendW : t.pendW = s.pendW

section
variable {s t : State}

theorem State.Held.of_same (hs : s.Held) (h : SameSession s t) : t.Held where
  table := by simpa only [h.table, h.len] using hs.table
  pending := by simpa only [h.pendValid, h.pendW] using hs.pending
  buf_wf := by simpa only [h.buf] using hs.buf_wf
  buf_within := by simpa only [h.buf, h.len] using hs.buf_within
  fields := by simpa only [h.table, h.buf, h.len] using hs.fields
  len_le := by simpa only [h.len] using hs.len_le

/-- A session long enough, and with nothing pending, may wait for FIN (R182, R191). -/
theorem State.Held.inv_finalizing (hs : s.Held) (hlong : 64 ≤ s.len.toNat) (hbucket : s.table.n ≠ 0)
    (hpend : s.pendValid = false) : State.Inv { s with fsm := .finalizing } :=
  State.inv_iff.2 ⟨hs.of_same ⟨rfl, rfl, rfl, rfl, rfl⟩, by simp, by simp, fun _ => ⟨hlong, hbucket, hpend⟩⟩

theorem State.Cleared.of_same (hs : s.Cleared) (h : SameSession s t) : t.Cleared where
  table := h.table.trans hs.table
  buf := h.buf.trans hs.buf
  len := h.len.trans hs.len
  pendValid := h.pendValid.trans hs.pendValid
  pendW := h.pendW.trans hs.pendW

theorem State.Inv.of_same (hs : s.Inv) (h : SameSession s t) (hfsm : t.fsm = s.fsm) : t.Inv := by
  obtain ⟨hheld, hplaced⟩ := State.inv_iff.1 hs
  refine State.inv_iff.2 ⟨hheld.of_same h, fun ht => ?_, ?_, ?_⟩
  · exact (hplaced.idle (hfsm ▸ ht)).of_same h
  · simpa only [hfsm, h.table, h.len, h.pendValid] using hplaced.capturing
  · simpa only [hfsm, h.table, h.len, h.pendValid] using hplaced.finalizing

/-! ### A session that holds nothing -/

theorem BucketTable.empty_live : BucketTable.empty.live = [] := by
  rw [BucketTable.live, BucketTable.empty_n]
  exact List.take_zero

theorem BucketTable.empty_sound (bound : Axis → Nat) : BucketTable.empty.Sound bound where
  disjoint := ⟨Nat.zero_le _, by simp [BucketTable.empty_live], by simp [BucketTable.empty_live]⟩
  widths := by simp [BucketTable.empty_live]
  combined := by simp [BucketTable.empty_live]
  counts := by simp [BucketTable.empty_live, axisCounts]

/-- With nothing stored, a session holds at most its pending pulse. -/
theorem State.held_of_empty (htable : s.table = BucketTable.empty) (hbuf : s.buf = []) (hlen : s.len = 0)
    (hpending : s.pendValid = true → 2 ≤ s.pendW.toNat) : s.Held where
  table := htable ▸ BucketTable.empty_sound _
  pending := hpending
  buf_wf := hbuf ▸ rfl
  buf_within := by simp [hbuf]
  fields := by simp [hlen]
  len_le := by simp [hlen]

/-- A cleared session in IDLE meets the invariant (R39, R40). -/
theorem State.Cleared.inv (hs : s.Cleared) (hfsm : s.fsm = .idle) : s.Inv :=
  State.inv_iff.2 ⟨State.held_of_empty hs.table hs.buf hs.len (by simp [hs.pendValid]),
    fun _ => hs, by simp [hfsm], by simp [hfsm]⟩

theorem State.reportAndIdle_inv (s : State) (r : Report) : (s.reportAndIdle r).Inv :=
  (s.reportAndIdle_cleared r).inv rfl

theorem resetBlock_inv (s : State) : (resetBlock s).Inv :=
  State.Cleared.inv ⟨rfl, rfl, rfl, rfl, rfl⟩ rfl

theorem abandon_inv (s : State) : (abandon s).Inv := State.reportAndIdle_inv _ _

/-- A session starts with nothing but its first pulse, above the debounce floor and so no footer marker (R6, R181). -/
theorem sessionStart_inv {w : Dur} (hw : 2 ≤ w.toNat) (s : State) : (sessionStart w s).Inv :=
  (State.held_of_empty rfl rfl rfl fun _ => hw).inv_capturing rfl (by simp) (by simp) (by simp)

/-! ### The append (R183) -/

section
variable {space : Dur} (hs : s.Held) (hpend : s.pendValid = true)
include hs hpend

theorem State.Held.appended (hroom : s.len.toNat < 512) (hspace : space ≠ 0 → 2 ≤ space.toNat) :
    (s.appended space).Held := by
  have hlen := State.appended_len_toNat (space := space) hroom
  obtain ⟨hn, hhi, hlo⟩ := hs.table.classifyPair_names (p := configured) (pulse := s.pendW) (space := space)
  refine ⟨?_, by simp [State.appended], Memory.wf_write hs.buf_wf, fun c hc => ?_, fun k hk => ?_, by omega⟩
  · rw [hlen]
    exact hs.table.classifyPair (by omega) (hs.pending hpend) hspace
  · obtain rfl | hc := Memory.mem_write hc
    · rw [hlen]
      exact Nat.lt_succ_self _
    · exact (hs.buf_within c hc).trans (by omega)
  · by_cases hlast : k = s.len.toNat
    · rw [hlast, State.appended, Memory.read_write_same hs.buf_wf]
      exact ⟨hhi, hlo⟩
    · rw [State.read_appended_of_ne hlast]
      obtain ⟨hhi', hlo'⟩ := hs.fields k (by omega)
      exact ⟨hhi'.mono hn, hlo'.mono hn⟩

/-- The pending pulse is classified, so there is a bucket (R189). -/
theorem State.Held.appended_n : (s.appended space).table.n ≠ 0 := by
  have hne : s.pendW ≠ 0 := fun h => by simpa [h] using hs.pending hpend
  have hpos : 0 < (s.appended space).table.n.toNat := classifyPair_n_pos hs.table.disjoint hne
  exact fun h => by simp [h] at hpos

end

/-! ### The end of a session (R182) -/

theorem guardShort_inv (hs : s.Held) (hpend : s.pendValid = false) (hn : s.len ≠ 0 → s.table.n ≠ 0) :
    (guardShort configured s).Inv := by
  rcases guardShort_cases configured s with ⟨-, h⟩ | ⟨hlong, h⟩ <;> rw [h]
  · exact s.reportAndIdle_inv _
  · rw [configured_minHalfbits] at hlong
    have hne : s.len ≠ 0 := fun h => by simp [h] at hlong
    exact hs.inv_finalizing hlong (hn hne) hpend

/-- A session in CAPTURING, as the invariant has it. -/
structure State.Live (s : State) : Prop where
  held : s.Held
  room : s.len.toNat < 512
  bucket : s.len ≠ 0 → s.table.n ≠ 0

theorem State.Inv.live (hs : s.Inv) (hfsm : s.fsm = .capturing) : s.Live := by
  obtain ⟨hheld, hplaced⟩ := State.inv_iff.1 hs
  obtain ⟨hroom, -, hbucket⟩ := hplaced.capturing hfsm
  exact ⟨hheld, hroom, hbucket⟩

theorem endSession_inv {reason : EndReason} (hs : s.Live) (h : endSession configured reason s = .ok t) : t.Inv := by
  have hheld : State.Held { s with endReason := reason } := hs.held.of_same ⟨rfl, rfl, rfl, rfl, rfl⟩
  obtain ⟨hpend, rfl⟩ | ⟨hpend, u, hu, rfl⟩ := endSession_eq_ok.1 h
  · exact guardShort_inv hheld hpend hs.bucket
  · rw [appendPending_of_room (s := { s with endReason := reason }) hs.room, Except.ok.injEq] at hu
    subst hu
    exact guardShort_inv (hheld.appended hpend hs.room (by simp)) rfl fun _ => hheld.appended_n hpend

/-- The append leaves a live session with a bucket, or fills the buffer and so ends it. -/
theorem edgeSpace_inv {w : Dur} (hs : s.Live) (hfsm : s.fsm = .capturing) (hpend : s.pendValid = true)
    (hw : 2 ≤ w.toNat) (h : edgeSpace configured w s = .ok t) : t.Inv := by
  have happended : (s.appended w).Held := hs.held.appended hpend hs.room fun _ => hw
  have hlen := State.appended_len_toNat (space := w) hs.room
  have hn : (s.appended w).table.n ≠ 0 := hs.held.appended_n hpend
  by_cases hlast : s.len.toNat = 511
  · rw [edgeSpace_last hlast, Except.ok.injEq] at h
    subst h
    have hlong : 64 ≤ (s.appended w).len.toNat := by omega
    have hended : State.Held { s.appended w with endReason := .bufferFull } :=
      happended.of_same ⟨rfl, rfl, rfl, rfl, rfl⟩
    exact hended.inv_finalizing hlong hn rfl
  · have hroom := hs.room
    rw [edgeSpace_below_last (by omega), Except.ok.injEq] at h
    subst h
    have hne : (s.appended w).len ≠ 0 := fun h => by simp [h] at hlen
    exact happended.inv_capturing hfsm (by omega) (fun h => absurd h hne) fun _ => hn

/-- An edge in CAPTURING ends the session, or appends a half-bit, or becomes the pending pulse (R184). -/
theorem edgeCapturing_inv {w : Dur} (hs : s.Live) (hfsm : s.fsm = .capturing) (hw : 2 ≤ w.toNat)
    (h : edgeCapturing configured w s = .ok t) : t.Inv := by
  obtain ⟨-, hend⟩ | ⟨-, hpend, hspace⟩ | ⟨-, -, rfl⟩ := edgeCapturing_eq_ok.1 h
  · exact endSession_inv hs hend
  · exact edgeSpace_inv hs hfsm hpend hw hspace
  · obtain ⟨⟨htable, -, hwf, hwithin, hfields, hlen⟩, hroom, hbucket⟩ := hs
    exact State.Held.inv_capturing ⟨htable, fun _ => hw, hwf, hwithin, hfields, hlen⟩ hfsm hroom (fun _ => rfl) hbucket

end

/-! ### Commands and steps -/

theorem two_le_of_startsSession {level : Bool} {w : Dur} (h : StartsSession level w) : 2 ≤ w.toNat := by
  have hfloor : 1 ≤ configured.debounceFloor := Nat.le_add_right 1 _
  have := h.2.1
  omega

/-- Every command that some word stands for keeps the invariant. -/
theorem Ran.inv {i : Instr} {s t : State} (h : Ran s i t) (hs : s.Inv) (hi : i.wellFormed = true) : t.Inv := by
  have hstamped : State.Inv { s with lastEdgeMs := s.timeMs } := hs.of_same ⟨rfl, rfl, rfl, rfl, rfl⟩ rfl
  cases h with
  | footerIdle | edgeIgnored => exact hs
  | footerFinalizing | edgeFinalizing | tick | reservedR | reserved => exact hs.of_same ⟨rfl, rfl, rfl, rfl, rfl⟩ rfl
  | edgeStarts hfsm hband => exact sessionStart_inv (two_le_of_startsSession hband) s
  | capturing hfsm hcall =>
    cases hcall with
    | footer hend => exact endSession_inv (hstamped.live hfsm) hend
    | edge hedge => exact edgeCapturing_inv (hstamped.live hfsm) hfsm (of_decide_eq_true hi) hedge
  | tickAbandons => exact abandon_inv _
  | reset => exact resetBlock_inv s

/-- The next turn is no command, so it is the engine's (log entries 1 and 2). -/
def State.EngineNext (s : State) : Prop := ∀ word rest, s.agenda ≠ .command word :: rest

theorem State.engineNext_or_command (s : State) : s.EngineNext ∨ ∃ word rest, s.agenda = .command word :: rest := by
  simp only [State.EngineNext, ← not_exists, ne_eq]
  exact (Classical.em _).symm

theorem step_of_command {s : State} {word : CmdWord} {rest : List Turn} (h : s.agenda = .command word :: rest) :
    step s = exec (decode word) { s with agenda := rest } := by
  rw [step, fetch, h]

theorem step_of_engine {s : State} (h : s.EngineNext) : step s = engineTurn s := by
  have hfetch : fetch s = none := by
    rw [fetch]
    split
    next word rest hagenda => exact absurd hagenda (h word rest)
    next => rfl
  rw [step, hfetch]

theorem engineTurn_of_ne {s : State} (h : s.fsm ≠ .finalizing) :
    engineTurn s = .next { s with agenda := s.agenda.tail } := by
  cases hfsm : s.fsm with
  | idle | capturing => rw [engineTurn, hfsm]
  | finalizing => exact absurd hfsm h

theorem engineTurn_of_finalizing {s : State} (h : s.fsm = .finalizing) :
    engineTurn s = answer (finalize configured { s with agenda := s.agenda.tail }) := by
  rw [engineTurn, h]

/-- The three things a step can be: a command, FIN, or a turn the engine has no use for. -/
inductive Stepped (s : State) : State → Prop where
  | command {word rest t} (hagenda : s.agenda = .command word :: rest)
      (ran : Ran { s with agenda := rest } (decode word) t) : Stepped s t
  | fin {t} (hfsm : s.fsm = .finalizing) (hfin : finalize configured { s with agenda := s.agenda.tail } = .ok t) :
      Stepped s t
  | skipped (hfsm : s.fsm ≠ .finalizing) : Stepped s { s with agenda := s.agenda.tail }

theorem step_stepped {s t : State} (h : step s = .next t) : Stepped s t := by
  obtain hnext | ⟨word, rest, hagenda⟩ := s.engineNext_or_command
  · rw [step_of_engine hnext] at h
    by_cases hfsm : s.fsm = .finalizing
    · rw [engineTurn_of_finalizing hfsm, answer_eq_next] at h
      exact .fin hfsm h
    · rw [engineTurn_of_ne hfsm, Host.Outcome.next.injEq] at h
      exact h ▸ .skipped hfsm
  · rw [step_of_command hagenda] at h
    exact .command hagenda (exec_ran h)

/-- FIN answers with the report of a normalized session, and IDLE. -/
theorem finalize_reports {p : Params} {s t : State} (h : finalize p s = .ok t) :
    ∃ u pulse space, normalize p s = .ok u ∧ t = u.reportAndIdle (finReport p u pulse space) := by
  obtain ⟨u, hu, hfinish⟩ := finalize_eq_ok.1 h
  obtain ⟨pulse, space, -, -, rfl⟩ := finishSession_eq_ok.1 hfinish
  exact ⟨u, pulse, space, hu, rfl⟩

/-- Settles O47: the head of the agenda is what the step fetches. -/
theorem stepRunsDecodedCommand : Obligations.StepRunsDecodedCommand := by
  refine ⟨fun s word rest => step_of_command, fun s w hw => ?_⟩
  rw [State.withFetchWord, Nat.mod_eq_of_lt hw]
  exact step_of_command (offer_agenda _ s)

/-- Settles O48: with no command next the turn is the engine's, which acts in FINALIZING alone. -/
theorem engineIdlesOutsideFinalizing : Obligations.EngineIdlesOutsideFinalizing :=
  fun _ hfsm hnext => (step_of_engine hnext).trans (engineTurn_of_ne hfsm)

/-- Settles O49: the reset state holds no session. -/
theorem invariantAtReset : Obligations.InvariantAtReset := resetBlock_inv State.reset

/-- Settles O50: a command that is fetched is well-formed, FIN clears the session, and a turn taken off the agenda is
none of the session's. -/
theorem stepKeepsInvariant : Obligations.StepKeepsInvariant := by
  intro s t hs h
  cases step_stepped h with
  | command hagenda ran => exact ran.inv (hs.of_same ⟨rfl, rfl, rfl, rfl, rfl⟩ rfl) (encodeOfDecode _).2
  | fin hfsm hfin =>
    obtain ⟨u, pulse, space, -, rfl⟩ := finalize_reports hfin
    exact u.reportAndIdle_inv _
  | skipped => exact hs.of_same ⟨rfl, rfl, rfl, rfl, rfl⟩ rfl

/-- Settles O52: a counter of one bucket is at most the sum of its axis, and that at most the length. -/
theorem countersAreBounded : Obligations.CountersAreBounded := by
  intro s b hs hb
  have hlen : s.len.toNat ≤ 512 := hs.len_le
  have hpulse : b.pcnt.toNat ≤ 512 := (count_le_sum_axisCounts hb .pulse).trans ((hs.counts .pulse).trans hlen)
  have hspace : b.scnt.toNat ≤ 512 := (count_le_sum_axisCounts hb .space).trans ((hs.counts .space).trans hlen)
  have hcombined := hs.combined b hb
  exact ⟨hpulse, hspace, by omega⟩

end Sys2Proof.Machine
end

section
/-! The obligations on the sorter and the remapper (42_bucket_sorter_remapper R120-R125): the real buckets in order, the
rank of a bucket as its place in that order, and the remap of the stored pairs. -/

namespace Sys2Proof.Machine

/-! ### Ranks in a strictly ordered list (R120) -/

section
variable {l : List Bucket} {k : Nat} {b : Bucket}

/-- In a strictly ordered list the rank of a bucket is its place. -/
theorem rankOf_of_ordered (hl : l.Pairwise fun a b => a.min < b.min) (hb : l[k]? = some b) : rankOf l b = k := by
  rw [rankOf]
  induction l generalizing k with
  | nil => simp at hb
  | cons x l ih =>
    obtain ⟨hx, hl⟩ := List.pairwise_cons.1 hl
    cases k with
    | zero =>
      obtain rfl : x = b := by simpa using hb
      refine List.countP_eq_zero.2 fun c hc => ?_
      obtain rfl | hc := List.mem_cons.1 hc
      · simp
      · simpa using BitVec.le_of_lt (hx c hc)
    | succ k =>
      have hb : l[k]? = some b := by simpa using hb
      rw [List.countP_cons_of_pos (by simpa using hx b (List.mem_of_getElem? hb)), ih hl hb]

theorem rankOf_perm {l' : List Bucket} (h : l.Perm l') (b : Bucket) : rankOf l b = rankOf l' b := h.countP_eq _

end

/-! ### The real buckets in order -/

/-- The real buckets in the order of their `min`. -/
def BucketTable.inOrder (t : BucketTable) : List Bucket := t.live.mergeSort fun a b => decide (a.min ≤ b.min)

theorem BucketTable.inOrder_perm (t : BucketTable) : t.inOrder.Perm t.live := List.mergeSort_perm _ _

section
variable {t : BucketTable} (ht : t.Disjoint)
include ht

/-- Disjoint ranges have different minima, so the order is strict (R25). -/
theorem BucketTable.Disjoint.inOrder_pairwise : t.inOrder.Pairwise fun a b => a.min < b.min := by
  have hle : t.inOrder.Pairwise fun a b => a.min ≤ b.min := by
    rw [BucketTable.inOrder]
    simpa using List.pairwise_mergeSort (le := fun a b : Bucket => decide (a.min ≤ b.min))
      (fun a b c hab hbc => by simp only [decide_eq_true_eq] at *; exact BitVec.le_trans hab hbc)
      (fun a b => by simpa using BitVec.le_total a.min b.min) t.live
  have hne : t.live.Pairwise fun a b => a.min ≠ b.min := by
    refine ht.apart.imp_of_mem fun {a b} ha hb hapart hmin => ?_
    have hord := ht.ordered a ha
    have hord' := ht.ordered b hb
    simp only [BitVec.le_def, BitVec.lt_def, hmin] at hapart hord hord'
    omega
  have hne' := (t.inOrder_perm.pairwise_iff fun h => h.symm).2 hne
  exact hle.imp₂ (fun a b hab hne => Nat.lt_of_le_of_ne hab fun h => hne (BitVec.eq_of_toNat_eq h)) hne'

theorem BucketTable.Disjoint.rankOf_live {k : Nat} {b : Bucket} (hb : t.inOrder[k]? = some b) :
    rankOf t.live b = k :=
  (rankOf_perm t.inOrder_perm b).symm.trans (rankOf_of_ordered ht.inOrder_pairwise hb)

/-- The real buckets and their ranks are the ordered buckets and their places. -/
theorem BucketTable.Disjoint.getElem?_rankOf {b : Bucket} (hb : b ∈ t.live) : t.inOrder[rankOf t.live b]? = some b := by
  obtain ⟨k, hk⟩ := List.getElem?_of_mem (t.inOrder_perm.mem_iff.2 hb)
  rwa [ht.rankOf_live hk]

end

/-! ### The entry sort (R121) -/

/-- Writing each bucket at a place of its own. -/
def placeAll (place : Bucket → Nat) (bs entries : List Bucket) : List Bucket :=
  bs.foldl (fun acc b => acc.set (place b) b) entries

section
variable {place : Bucket → Nat} {bs entries : List Bucket}

/-- What no write goes to stays. -/
theorem placeAll_getElem?_of_ne {k : Nat} (h : ∀ b ∈ bs, place b ≠ k) :
    (placeAll place bs entries)[k]? = entries[k]? := by
  induction bs generalizing entries with
  | nil => rfl
  | cons b bs ih =>
    obtain ⟨hb, hbs⟩ := List.forall_mem_cons.1 h
    exact (ih hbs).trans (List.getElem?_set_ne hb)

/-- A bucket that shares its place with no other one stands there. -/
theorem placeAll_getElem?_of_mem {b : Bucket} (hb : b ∈ bs) (hplace : place b < entries.length)
    (halone : ∀ c ∈ bs, place c = place b → c = b) : (placeAll place bs entries)[place b]? = some b := by
  induction bs generalizing entries with
  | nil => cases hb
  | cons c bs ih =>
    have halone' := (List.forall_mem_cons.1 halone).2
    by_cases hlater : b ∈ bs
    · exact ih hlater (by simpa using hplace) halone'
    · obtain rfl := (List.mem_cons.1 hb).resolve_right hlater
      have hne : ∀ c ∈ bs, place c ≠ place b := fun c hc h => hlater (halone' c hc h ▸ hc)
      exact (placeAll_getElem?_of_ne hne).trans (List.getElem?_set_self hplace)

/-- Writing each bucket where it stands already changes nothing. -/
theorem placeAll_eq_self (h : ∀ b ∈ bs, entries[place b]? = some b) : placeAll place bs entries = entries := by
  induction bs with
  | nil => rfl
  | cons b bs ih =>
    obtain ⟨hb, hbs⟩ := List.forall_mem_cons.1 h
    obtain ⟨hlt, hb⟩ := List.getElem?_eq_some_iff.1 hb
    have hset : entries.set (place b) b = entries :=
      (congrArg (entries.set (place b)) hb.symm).trans (List.set_getElem_self hlt)
    show placeAll place bs (entries.set (place b) b) = entries
    rw [hset, ih hbs]

end

theorem BucketTable.toList_sort_entries (t : BucketTable) :
    t.sort.entries.toList = placeAll (rankOf t.live) t.live t.entries.toList := by
  rw [BucketTable.sort, placeAll]
  exact (List.foldl_hom Vector.toList fun v b => Vector.toList_setIfInBounds.symm).symm

@[simp] theorem BucketTable.sort_n (t : BucketTable) : t.sort.n = t.n := rfl

/-- The sort leaves the real buckets in order (R121). -/
theorem BucketTable.Disjoint.sort_live {t : BucketTable} (ht : t.Disjoint) : t.sort.live = t.inOrder := by
  have hlength : t.inOrder.length = t.n.toNat := t.inOrder_perm.length_eq.trans (t.live_length ht.count_le)
  refine List.ext_getElem? fun k => ?_
  rw [BucketTable.live, List.getElem?_take, BucketTable.toList_sort_entries, BucketTable.sort_n]
  split_ifs with hk
  · obtain ⟨b, hb⟩ : ∃ b, t.inOrder[k]? = some b := ⟨_, List.getElem?_eq_getElem (hlength ▸ hk)⟩
    have hrank := ht.rankOf_live hb
    have hmem : b ∈ t.live := t.inOrder_perm.mem_iff.1 (List.mem_of_getElem? hb)
    rw [hb, ← hrank]
    refine placeAll_getElem?_of_mem hmem ?_ fun c hc hsame => ?_
    · rw [hrank, Vector.length_toList]
      exact hk.trans_le ht.count_le
    · exact Option.some.inj ((ht.getElem?_rankOf hc).symm.trans (hsame ▸ ht.getElem?_rankOf hmem))
  · rw [List.getElem?_eq_none (by omega)]

/-- Settles O20: the sorted table's real buckets are the old ones in strict order. -/
theorem sortOrdersBuckets : Obligations.SortOrdersBuckets :=
  fun t ht => ⟨t.sort_n, ht.sort_live ▸ t.inOrder_perm, ht.sort_live ▸ ht.inOrder_pairwise⟩

/-! ### The remap of a field (R122) -/

theorem remapField_of_getElem? {live : List Bucket} {f : Nibble} {b : Bucket} (hb : live[f.toNat]? = some b) :
    remapField live f = BitVec.ofNat 4 (rankOf live b) := by
  rw [remapField, hb]

theorem remapField_of_length_le {live : List Bucket} {f : Nibble} (h : live.length ≤ f.toNat) :
    remapField live f = f := by
  rw [remapField, List.getElem?_eq_none h]

/-- A remapped field names, in the order, the bucket that it named in the table. -/
theorem BucketTable.Disjoint.getElem?_remapField {t : BucketTable} (ht : t.Disjoint) {f : Nibble}
    (hf : f.toNat < t.n.toNat) : t.inOrder[(remapField t.live f).toNat]? = t.live[f.toNat]? := by
  obtain ⟨b, hb⟩ : ∃ b, t.live[f.toNat]? = some b :=
    ⟨_, List.getElem?_eq_getElem (t.live_length ht.count_le ▸ hf)⟩
  have hrank := ht.getElem?_rankOf (List.mem_of_getElem? hb)
  have hlt : rankOf t.live b < t.n.toNat := by
    have hlt := (List.getElem?_eq_some_iff.1 hrank).1
    rwa [t.inOrder_perm.length_eq, t.live_length ht.count_le] at hlt
  rw [remapField_of_getElem? hb, BitVec.toNat_ofNat, Nat.mod_eq_of_lt (hlt.trans t.n.isLt), hrank, hb]

/-- Settles O21: a field that names a bucket is remapped to its place in the order, any other one is left. -/
theorem remapNamesSameBucket : Obligations.RemapNamesSameBucket := by
  intro t f ht
  refine ⟨fun hf => ?_, fun hf => remapField_of_length_le (t.live_length ht.count_le ▸ hf)⟩
  rw [ht.sort_live, ht.getElem?_remapField hf]

/-! ### The buffer remap (R122, R123) -/

/-- The buffer with the pairs at the given indices remapped. -/
def remapAt (live : List Bucket) (ks : List Nat) (m : Memory) : Memory :=
  ks.foldl (fun m k => Memory.write m k (remapPair live (Memory.read m k))) m

theorem read_remapAt {live : List Bucket} {ks : List Nat} {m : Memory} (hks : ks.Nodup) (hm : Memory.wf m = true)
    (k : Nat) :
    Memory.read (remapAt live ks m) k = if k ∈ ks then remapPair live (Memory.read m k) else Memory.read m k := by
  induction ks generalizing m with
  | nil => rfl
  | cons j ks ih =>
    obtain ⟨hj, hks⟩ := List.nodup_cons.1 hks
    have hstep := ih hks (Memory.wf_write (k := j) (v := remapPair live (Memory.read m j)) hm)
    refine hstep.trans ?_
    by_cases hkj : k = j
    · subst hkj
      rw [if_neg hj, if_pos List.mem_cons_self, Memory.read_write_same hm]
    · rw [Memory.read_write_other hkj]
      simp [hkj]

/-- The session after Normalize (R123). -/
def State.normalized (s : State) : State :=
  { s with table := s.table.sort, buf := remapAt s.table.live (List.range s.len.toNat) s.buf }

theorem normalize_of_fits {s : State} (h : s.len.toNat ≤ 512) : normalize configured s = .ok s.normalized :=
  normalize_eq h

theorem State.read_normalized {s : State} (hwf : Memory.wf s.buf = true) (k : Nat) :
    Memory.read s.normalized.buf k =
      if k < s.len.toNat then remapPair s.table.live (Memory.read s.buf k) else Memory.read s.buf k := by
  simp only [State.normalized, read_remapAt List.nodup_range hwf, List.mem_range]

/-- Settles O22: Normalize writes the sorted table and each stored pair once. -/
theorem normalizeResult : Obligations.NormalizeResult := by
  intro s hlen hwf
  refine ⟨s.normalized.buf, normalize_of_fits hlen, fun k hk => ?_, fun k hk => ?_⟩
  · rw [State.read_normalized hwf, if_pos hk, remapPair]
  · rw [State.read_normalized hwf, if_neg hk.not_gt]

/-! ### Normalizing again (R124) -/

theorem Memory.write_read_self {m : Memory} (hm : Memory.wf m = true) (k : Nat) :
    Memory.write m k (Memory.read m k) = m := by
  induction m with
  | nil => rfl
  | cons d m ih =>
    obtain ⟨a, b⟩ := d
    obtain ⟨hb, hlt, hm'⟩ := Memory.wf_cons.1 hm
    obtain hka | rfl | hka := lt_trichotomy k a
    · have hbelow : Memory.read ((a, b) :: m) k = Memory.unlisted := Memory.read_below fun c hc => by
        obtain rfl | hc := List.mem_cons.1 hc
        · exact hka
        · exact hka.trans (hlt c hc)
      rw [hbelow, Memory.write, if_pos hka, if_pos rfl]
    · have hhere : Memory.read ((k, b) :: m) k = b := if_pos rfl
      rw [hhere, Memory.write, if_neg (lt_irrefl k), if_pos rfl, if_neg hb]
    · have hafter : Memory.read ((a, b) :: m) k = Memory.read m k := if_neg hka.ne
      rw [hafter, Memory.write, if_neg hka.not_gt, if_neg hka.ne', ih hm']

theorem pack_hi_lo (np : Byte) : pack (hi np) (lo np) = np := by
  apply BitVec.eq_of_toNat_eq
  rw [pack_toNat, hi_toNat, lo_toNat]
  omega

section
variable {live : List Bucket} (hlive : live.Pairwise fun a b => a.min < b.min)
include hlive

/-- In a strictly ordered table a field is its own rank. -/
theorem remapField_of_ordered (f : Nibble) : remapField live f = f := by
  by_cases hf : f.toNat < live.length
  · have hb := List.getElem?_eq_getElem hf
    rw [remapField_of_getElem? hb, rankOf_of_ordered hlive hb, BitVec.ofNat_toNat, BitVec.setWidth_eq]
  · exact remapField_of_length_le (not_lt.1 hf)

theorem remapAt_of_ordered {m : Memory} (hm : Memory.wf m = true) (ks : List Nat) : remapAt live ks m = m := by
  have hpair (np : Byte) : remapPair live np = np := by
    rw [remapPair, remapField_of_ordered hlive, remapField_of_ordered hlive, pack_hi_lo]
  induction ks with
  | nil => rfl
  | cons k ks ih =>
    show remapAt live ks (Memory.write m k (remapPair live (Memory.read m k))) = m
    rw [hpair, Memory.write_read_self hm, ih]

end

theorem BucketTable.getElem?_of_live {t : BucketTable} {i : Nat} {b : Bucket} (h : t.live[i]? = some b) :
    t.entries.toList[i]? = some b := by
  rw [BucketTable.live, List.getElem?_take] at h
  split_ifs at h
  exact h

theorem BucketTable.sort_of_ordered {t : BucketTable} (hlive : t.live.Pairwise fun a b => a.min < b.min) :
    t.sort = t := by
  have hentries : t.sort.entries.toList = t.entries.toList := by
    rw [BucketTable.toList_sort_entries]
    refine placeAll_eq_self fun b hb => ?_
    obtain ⟨k, hk⟩ := List.getElem?_of_mem hb
    rw [rankOf_of_ordered hlive hk]
    exact BucketTable.getElem?_of_live hk
  exact congrArg (BucketTable.mk t.n) (Vector.toList_inj.1 hentries)

theorem lt_cap_of_remap {p : Params} {live : List Bucket} {ks : List Nat} {s t : State}
    (h : ks.foldlM (fun s k => memWrite p k (remapPair live (Memory.read s.buf k)) s) s = .ok t) :
    ∀ k ∈ ks, k < p.cap := by
  induction ks generalizing s with
  | nil => simp
  | cons k ks ih =>
    rw [List.foldlM_cons] at h
    cases hwrite : memWrite p k (remapPair live (Memory.read s.buf k)) s with
    | error r =>
      rw [hwrite] at h
      cases h
    | ok u =>
      rw [hwrite] at h
      exact List.forall_mem_cons.2 ⟨(memWrite_eq_ok.1 hwrite).1, ih h⟩

/-- Normalize of a session that does not fit the buffer is refused. -/
theorem fits_of_normalize {p : Params} {s t : State} (h : normalize p s = .ok t) : s.len.toNat ≤ p.cap :=
  not_lt.1 fun hlong => lt_irrefl _ (lt_cap_of_remap h p.cap (List.mem_range.2 hlong))

/-- What Normalize leaves, Normalize leaves alone. -/
theorem State.normalized_normalized {s : State} (ht : s.table.Disjoint) (hwf : Memory.wf s.buf = true) :
    s.normalized.normalized = s.normalized := by
  have hlive : s.table.sort.live.Pairwise fun a b => a.min < b.min := (sortOrdersBuckets s.table ht).2.2
  have hbuf : remapAt s.table.sort.live (List.range s.len.toNat) s.normalized.buf = s.normalized.buf :=
    remapAt_of_ordered hlive (remap_buf_wf _ _ hwf) _
  calc s.normalized.normalized
    _ = { s.normalized with
          table := s.table.sort.sort
          buf := remapAt s.table.sort.live (List.range s.len.toNat) s.normalized.buf } := rfl
    _ = s.normalized := by rw [BucketTable.sort_of_ordered hlive, hbuf]; rfl

/-- Settles O23: in a sorted table every bucket is at its rank, so the second Normalize writes what stands there. -/
theorem normalizeIsIdempotent : Obligations.NormalizeIsIdempotent := by
  intro s t ht hwf h
  have hfits : s.len.toNat ≤ 512 := fits_of_normalize h
  rw [normalize_of_fits hfits, Except.ok.injEq] at h
  subst h
  rw [normalize_of_fits (s := s.normalized) hfits, State.normalized_normalized ht hwf]

end Sys2Proof.Machine
end

section
/-! The obligations on the thresholds that SelectAxis answers (43_gap_detector_freq_stats R136-R139) and on the flag of
a single-level axis (44_modulation_classifier R161, R162). -/

namespace Sys2Proof.Machine

theorem topRank_eq_none_iff {ranked : List (Nat × Nat)} : topRank ranked = none ↔ ranked = [] := by
  cases ranked with
  | nil => simp [topRank]
  | cons x rest =>
    rw [topRank]
    split
    · simp
    · split <;> simp

/-- The two shapes of a selected axis: collapsed onto one index of the counts, or on two different ones (R138). -/
inductive SelectedAxis (counts : List Nat) : AxisThresholds → Prop where
  | collapsed {i : Nat} (hi : i < counts.length) (a second gap : Nat) :
      SelectedAxis counts (collapsedAxis (a, i) second gap)
  | separate {i j : Nat} (hi : i < counts.length) (hj : j < counts.length) (hne : i ≠ j) (a b gap : Nat) :
      SelectedAxis counts (separateAxis counts (a, i) (b, j) gap)

theorem lt_length_of_mem_zipIdx {counts : List Nat} {x : Nat × Nat} (h : x ∈ counts.zipIdx) : x.2 < counts.length :=
  (List.getElem?_eq_some_iff.1 (List.mem_zipIdx_iff_getElem?.1 h)).1

/-- Wherever there is a count to rank, SelectAxis answers one of the two shapes (R136, R138). -/
theorem exists_selectAxis (p : Params) {counts : List Nat} (hne : counts ≠ []) :
    ∃ axis, selectAxis p counts = some axis ∧ SelectedAxis counts axis := by
  cases htop : topRank counts.zipIdx with
  | none => exact absurd (topRank_eq_none_iff.1 htop) (by simpa using hne)
  | some x =>
    have hx := lt_length_of_mem_zipIdx (topRank_mem htop)
    cases hsecond : topRank (besides x.2 counts.zipIdx) with
    | none => exact ⟨_, by simp only [selectAxis, htop, hsecond], .collapsed hx x.1 0 0⟩
    | some y =>
      obtain ⟨hy, hyx⟩ := mem_besides.1 (topRank_mem hsecond)
      refine ⟨_, selectAxis_of_ranks htop hsecond rfl, ?_⟩
      split_ifs
      · exact .collapsed hx ..
      · exact .separate hx (lt_length_of_mem_zipIdx hy) hyx.symm ..

theorem selectAxis_selected {p : Params} {counts : List Nat} {axis : AxisThresholds}
    (h : selectAxis p counts = some axis) : SelectedAxis counts axis := by
  have hne : counts ≠ [] := by
    rintro rfl
    cases h
  obtain ⟨axis', haxis', hselected⟩ := exists_selectAxis p hne
  rwa [Option.some.inj (h.symm.trans haxis')]

/-- Settles O25: an index of at most eight counts is kept whole in four bits, so two different ones stay different. -/
theorem axisThresholdsAreOrdered : Obligations.AxisThresholdsAreOrdered := by
  intro p counts axis hlength h
  have hkept {i : Nat} (hi : i < counts.length) : (BitVec.ofNat 4 i).toNat = i := by
    rw [BitVec.toNat_ofNat]
    omega
  cases selectAxis_selected h with
  | collapsed hi a second gap => exact ⟨BitVec.le_refl _, (hkept hi).trans_lt hi, by simp [collapsedAxis]⟩
  | @separate i j hi hj hne a b gap =>
    have hmin : (separateAxis counts (a, i) (b, j) gap).short.toNat = min i j := hkept (by omega)
    have hmax : (separateAxis counts (a, i) (b, j) gap).long.toNat = max i j := hkept (by omega)
    have hlevels : (separateAxis counts (a, i) (b, j) gap).singleLevel = false := rfl
    rw [BitVec.le_def, ← BitVec.toNat_inj, hmin, hmax, hlevels]
    exact ⟨by omega, by omega, by simp; omega⟩

/-- Settles O32: no midpoint is more than twice itself. -/
theorem singleLevelAxisSetsNoFlag : Obligations.SingleLevelAxisSetsNoFlag := by
  intro p live counts axis h hsingle
  cases selectAxis_selected h with
  | collapsed hi a second gap =>
    rw [modulationFlag, configured_modRatio, decide_eq_false_iff_not, collapsedAxis, not_lt]
    exact Nat.le_mul_of_pos_left _ (by decide)
  | separate => cases hsingle

end Sys2Proof.Machine
end

section
/-! The obligations on the spans of a buffer (43_gap_detector_freq_stats R141-R143; 93_implementation_defined I18). -/

namespace Sys2Proof.Machine

/-- Settles O27: the whole buffer is one open run, which the end of the scan closes. -/
theorem unbrokenBufferIsOneSpan : Obligations.UnbrokenBufferIsOneSpan := by
  intro p longPulse longSpace bytes hne hdata
  have hpos : 0 < bytes.length := List.length_pos_iff.2 hne
  have hscan : segment p longPulse longSpace bytes =
      { Scan.start with
        run := bytes.length, bestLen := bytes.length, repeats := 1
        spans := [spanOf 0 (bytes.length - 1) bytes.length] } := by
    have hrun := scanFrom_data (p := p) (k := 0) (c := Scan.start) hdata []
    simp only [List.append_nil, Nat.zero_add] at hrun
    rw [segment, hrun, scanFrom_nil_of_open (by simpa [Scan.start] using hpos), closeSpan]
    simp [Scan.start, hpos.ne']
  rw [hscan]
  exact ⟨rfl, rfl, rfl⟩

/-- A span inside the first `n` half-bits, and no longer than its extent. -/
def Span.Within (x : Span) (n : Nat) : Prop :=
  x.start ≤ x.stop ∧ x.stop.toNat < n ∧ x.length.toNat ≤ x.stop.toNat - x.start.toNat + 1

/-- The scan's results over the first `n` half-bits, its repeats apart. -/
structure Scan.Within (c : Scan) (n : Nat) : Prop where
  best : c.bestLen ≤ n
  count : c.spans.length ≤ 8
  spans : ∀ x ∈ c.spans, x.Within n

theorem Scan.Within.mono {c : Scan} {m n : Nat} (h : c.Within m) (hmn : m ≤ n) : c.Within n where
  best := h.best.trans hmn
  count := h.count
  spans := fun x hx => ⟨(h.spans x hx).1, (h.spans x hx).2.1.trans_le hmn, (h.spans x hx).2.2⟩

theorem spanOf_within {start stop length n : Nat} (horder : start ≤ stop) (hstop : stop < n) (hn : n ≤ 1023)
    (hlength : length ≤ stop - start + 1) : (spanOf start stop length).Within n := by
  have hkept {x : Nat} (hx : x ≤ 1023) : (BitVec.ofNat 10 x).toNat = x := by
    rw [BitVec.toNat_ofNat]
    omega
  rw [Span.Within, spanOf, BitVec.le_def, hkept (by omega), hkept (by omega), hkept (by omega)]
  exact ⟨horder, hstop, hlength⟩

section
variable {c : Scan} {start stop length n : Nat}

/-- Every message closed has at least one half-bit of its own. -/
theorem closeSpan_repeats_le (p : Params) : (closeSpan p start stop length c).repeats ≤ c.repeats + length := by
  rw [closeSpan]
  split_ifs <;> simp <;> omega

theorem Scan.Within.closeSpan (h : c.Within n) (hlength : length ≤ n) (hspan : (spanOf start stop length).Within n) :
    (closeSpan configured start stop length c).Within n := by
  obtain ⟨hbest, hcount, hspans⟩ := h
  rw [Machine.closeSpan]
  split_ifs with hempty hrestart hsame hroom
  · exact ⟨hbest, hcount, hspans⟩
  · exact ⟨hlength, by simp, by simpa using hspan⟩
  · refine ⟨hbest, ?_, ?_⟩
    · simp at hroom ⊢
      omega
    · simpa [or_imp, forall_and] using ⟨hspans, hspan⟩
  · exact ⟨hbest, hcount, hspans⟩
  · exact ⟨hbest, hcount, hspans⟩

theorem Scan.Within.scanHalfbit {brk : Byte → Bool} {np : Byte} {k : Nat} (h : c.Within k)
    (hrun : c.repeats + c.run ≤ k) (hfits : k + 1 ≤ 1023) :
    (scanHalfbit configured brk c np k).Within (k + 1) ∧
      (scanHalfbit configured brk c np k).repeats + (scanHalfbit configured brk c np k).run ≤ k + 1 := by
  have hnext := h.mono (Nat.le_succ k)
  rw [Machine.scanHalfbit]
  split_ifs
  · have hclosed := hnext.closeSpan (start := k - c.run) (stop := k) (length := c.run) (by omega)
      (spanOf_within (by omega) (by omega) hfits (by omega))
    have hrepeats := closeSpan_repeats_le (c := c) (start := k - c.run) (stop := k) (length := c.run) configured
    exact ⟨⟨hclosed.best, hclosed.count, hclosed.spans⟩, (hrepeats.trans hrun).trans (Nat.le_succ k)⟩
  · exact ⟨⟨hnext.best, hnext.count, hnext.spans⟩, Nat.succ_le_succ hrun⟩

/-- The scan from index `k` on keeps its results within the half-bits that it has passed. -/
theorem Scan.Within.scanFrom {brk : Byte → Bool} {k : Nat} (bytes : List Byte) (h : c.Within k)
    (hrun : c.repeats + c.run ≤ k) (hfits : k + bytes.length ≤ 1023) :
    (scanFrom configured brk k c bytes).Within (k + bytes.length) ∧
      (scanFrom configured brk k c bytes).repeats ≤ k + bytes.length := by
  induction bytes generalizing k c with
  | nil =>
    obtain hclosed | hopen := c.run.eq_zero_or_pos
    · rw [scanFrom_nil_of_closed hclosed]
      exact ⟨h, (Nat.le_add_right _ _).trans hrun⟩
    · rw [scanFrom_nil_of_open hopen]
      have hrepeats := closeSpan_repeats_le (c := c) (start := k - c.run) (stop := k - 1) (length := c.run) configured
      exact ⟨h.closeSpan (by omega) (spanOf_within (by omega) (by omega) hfits (by omega)), hrepeats.trans hrun⟩
  | cons np rest ih =>
    rw [List.length_cons] at hfits
    rw [Machine.scanFrom, List.length_cons, ← Nat.add_assoc, Nat.add_right_comm]
    obtain ⟨hnext, hrun'⟩ := h.scanHalfbit (brk := brk) (np := np) hrun (by omega)
    exact ih hnext hrun' (by omega)

end

/-- Segment's results stay within the buffer (R145). -/
theorem segment_within {longPulse longSpace : Nibble} {bytes : List Byte} (hfits : bytes.length ≤ 1023) :
    (segment configured longPulse longSpace bytes).Within bytes.length ∧
      (segment configured longPulse longSpace bytes).repeats ≤ bytes.length := by
  have hstart : Scan.start.Within 0 := ⟨le_rfl, Nat.zero_le 8, by simp [Scan.start]⟩
  have hscan := hstart.scanFrom (brk := isBreak longPulse longSpace) (k := 0) bytes le_rfl (by omega)
  rwa [Nat.zero_add] at hscan

/-- Settles O28: the registers stay within the half-bits that the scan has passed. -/
theorem segmentBounds : Obligations.SegmentBounds := by
  intro longPulse longSpace bytes hfits
  obtain ⟨hwithin, hrepeats⟩ := segment_within (longPulse := longPulse) (longSpace := longSpace) hfits
  exact ⟨hwithin.best, hrepeats, hwithin.count, hwithin.spans⟩

end Sys2Proof.Machine
end

section
/-! The obligations on FIN (45_capture_buffer_controller R189, R190), on steps that always answer (R8, R220) and on
what a step reports (R180). -/

namespace Sys2Proof.Machine

/-! ### The report of a normalized session (R190) -/

section
variable {p : Params} {s : State} {pulse space : AxisThresholds}

theorem finReport_analysis :
    (finReport p s pulse space).analysis =
      some (analysisOf s pulse space (segment p pulse.long space.long s.stored)) := by
  rw [finReport]
  split_ifs <;> rfl

theorem finReport_status :
    (finReport p s pulse space).status =
      if (segment p pulse.long space.long s.stored).isNoise p then .noiseNoRepeat else .ok := by
  rw [finReport]
  split_ifs <;> rfl

theorem finReport_decoding :
    (finReport p s pulse space).decoding =
      if (segment p pulse.long space.long s.stored).isNoise p then none else some (decodingOf p s pulse space) := by
  rw [finReport]
  split_ifs <;> rfl

/-- The fields that every report has are the session's. -/
theorem finReport_brief :
    (finReport p s pulse space).endReason = s.endReason ∧ (finReport p s pulse space).halfbits = s.len ∧
      (finReport p s pulse space).startMs = s.startMs ∧ (finReport p s pulse space).lastEdgeMs = s.lastEdgeMs := by
  rw [finReport]
  split_ifs <;> exact ⟨rfl, rfl, rfl, rfl⟩

theorem finReport_shaped : (finReport p s pulse space).Shaped := by
  rw [Report.Shaped, finReport_analysis, finReport_status, finReport_decoding]
  split_ifs <;> simp

/-- The 10-bit fields of the report hold Segment's values whole (R32). -/
theorem analysisOf_segment_toNat (hfits : s.len.toNat ≤ 512) {longPulse longSpace : Nibble} {c : Scan}
    (hc : segment configured longPulse longSpace s.stored = c) :
    (analysisOf s pulse space c).bestLen.toNat = c.bestLen ∧ (analysisOf s pulse space c).repeats.toNat = c.repeats ∧
      (analysisOf s pulse space c).nspans.toNat = c.spans.length := by
  have hlength := s.stored_length
  obtain ⟨⟨hbest, hcount, -⟩, hrepeats⟩ :=
    segment_within (longPulse := longPulse) (longSpace := longSpace) (bytes := s.stored) (by omega)
  rw [hc] at hbest hcount hrepeats
  have hkept {x : Nat} (hx : x ≤ 1023) : (BitVec.ofNat 10 x).toNat = x := by
    rw [BitVec.toNat_ofNat]
    omega
  exact ⟨hkept (by omega), hkept (by omega), hkept (by omega)⟩

theorem Scan.isNoise_iff (c : Scan) : c.isNoise configured = true ↔ c.bestLen ≤ 64 ∧ c.repeats < 2 := by
  rw [Scan.isNoise, Bool.and_eq_true, decide_eq_true_iff, decide_eq_true_iff, configured_noiseMsgLen,
    configured_noiseMinRepeats]

end

/-! ### FIN (R189) -/

/-- The session that FIN works on, its own turn taken off the agenda. -/
def State.atFin (s : State) : State := { s with agenda := s.agenda.tail }.normalized

theorem BucketTable.Disjoint.axisCounts_ne_nil {t : BucketTable} (ht : t.Disjoint) (hn : t.n ≠ 0) (axis : Axis) :
    axisCounts t.sort.live axis ≠ [] := by
  have hlength : t.sort.live.length = t.n.toNat := t.sort.live_length ht.count_le
  intro hnil
  have hzero : t.sort.live.length = 0 := by rw [List.map_eq_nil_iff.1 hnil, List.length_nil]
  exact hn (BitVec.eq_of_toNat_eq (hlength.symm.trans hzero))

/-- FIN answers with one report of the normalized session (R189). -/
theorem step_of_fin {s : State} (hs : s.Inv) (hfsm : s.fsm = .finalizing) (hnext : s.EngineNext) :
    ∃ pulse space,
      selectAxis configured (axisCounts s.table.sort.live .pulse) = some pulse ∧
      selectAxis configured (axisCounts s.table.sort.live .space) = some space ∧
      step s = .next (s.atFin.reportAndIdle (finReport configured s.atFin pulse space)) := by
  obtain ⟨-, hn, -⟩ := hs.finalizing hfsm
  obtain ⟨pulse, hpulse, -⟩ := exists_selectAxis configured (hs.table.axisCounts_ne_nil hn .pulse)
  obtain ⟨space, hspace, -⟩ := exists_selectAxis configured (hs.table.axisCounts_ne_nil hn .space)
  refine ⟨pulse, space, hpulse, hspace, ?_⟩
  rw [step_of_engine hnext, engineTurn_of_finalizing hfsm, answer_eq_next]
  exact finalize_eq_ok.2
    ⟨s.atFin, normalize_of_fits hs.len_le, finishSession_eq_ok.2 ⟨pulse, space, hpulse, hspace, rfl⟩⟩

/-- Settles O45: what FIN answers is the session's report and a cleared session. -/
theorem finResult : Obligations.FinResult := by
  intro s hs hfsm hnext
  obtain ⟨pulse, space, -, -, hstep⟩ := step_of_fin hs hfsm hnext
  obtain ⟨hend, hhalfbits, hstart, hlast⟩ :=
    finReport_brief (p := configured) (s := s.atFin) (pulse := pulse) (space := space)
  obtain ⟨hbest, hrepeats, -⟩ := analysisOf_segment_toNat (s := s.atFin) (pulse := pulse) (space := space) hs.len_le rfl
  refine ⟨_, _, _, hstep, rfl, State.reportAndIdle_cleared _ _, rfl, rfl, rfl, rfl, rfl, rfl, rfl, rfl,
    hend, hhalfbits, hstart, hlast, finReport_analysis, finReport_shaped, ?_⟩
  rw [finReport_status, hbest, hrepeats]
  simp only [Scan.isNoise_iff]

/-- A stored pair of the normalized session is the captured one, remapped. -/
theorem State.getElem?_stored_normalized {s : State} (hwf : Memory.wf s.buf = true) {k : Nat} {np : Byte}
    (h : s.normalized.stored[k]? = some np) : np = remapPair s.table.live (Memory.read s.buf k) := by
  obtain ⟨hk, hread⟩ := List.getElem?_eq_some_iff.1 h
  rw [State.stored_length] at hk
  simp only [State.stored_eq, List.getElem_map, List.getElem_range, State.read_normalized hwf] at hread
  rw [← hread]
  exact if_pos hk

/-- The sentinel names no bucket of a table, so it is remapped to itself (R122). -/
theorem BucketTable.Disjoint.remapField_sentinel {t : BucketTable} (ht : t.Disjoint) :
    remapField t.live 15 = 15 :=
  (remapNamesSameBucket t 15 ht).2 (ht.count_le.trans (by decide))

/-- A report that carries a decoding carries the one of its own session (R189, R190). -/
theorem finReport_ok {p : Params} {s : State} {pulse space : AxisThresholds}
    (h : (finReport p s pulse space).status = .ok) :
    (finReport p s pulse space).decoding = some (decodingOf p s pulse space) := by
  rw [finReport_status] at h
  rw [finReport_decoding]
  split_ifs at h ⊢
  rfl

/-- Settles O46: the report's fields are what FIN computed from the normalized session, and that session is the sorted
table with the remapped pairs. -/
theorem finReportsNormalizedSession : Obligations.FinReportsNormalizedSession := by
  intro s t hs hfsm hnext hstep r a hr ha
  obtain ⟨pulse, space, hpulse, hspace, hfin⟩ := step_of_fin hs hfsm hnext
  rw [hfin, Host.Outcome.next.injEq] at hstep
  subst hstep
  obtain rfl : finReport configured s.atFin pulse space = r := (List.cons.inj (List.append_cancel_left hr)).1
  rw [finReport_analysis, Option.some.injEq] at ha
  subst ha
  obtain ⟨hbest, hrepeats, hspans⟩ :=
    analysisOf_segment_toNat (s := s.atFin) (pulse := pulse) (space := space) hs.len_le rfl
  obtain ⟨hn, hperm, hordered⟩ := sortOrdersBuckets s.table hs.table
  refine ⟨hn, hperm, hordered, State.stored_length _, hpulse, hspace, hbest, hrepeats, hspans, rfl,
    fun hok => ⟨_, finReport_ok hok, rfl, rfl, rfl, rfl, rfl, rfl⟩, fun k np hnp => ?_⟩
  obtain rfl := State.getElem?_stored_normalized hs.buf_wf hnp
  rw [remapPair, hi_pack, lo_pack]
  refine ⟨fun f hf hlt => ?_, fun f hf hlt => ?_, fun h => ?_, fun h => ?_⟩
  · rw [hf]
    exact (remapNamesSameBucket s.table f hs.table).1 hlt
  · rw [hf]
    exact (remapNamesSameBucket s.table f hs.table).1 hlt
  · rw [h, hs.table.remapField_sentinel]
  · rw [h, hs.table.remapField_sentinel]

/-! ### Every step -/

/-- In a state that meets the invariant every command is answered. -/
theorem exists_exec {s : State} (hs : s.Inv) (i : Instr) : ∃ t, exec i s = .next t := by
  cases i with
  | footer l q v b =>
    obtain ⟨hidle, hcapturing, hfinalizing⟩ := footerResult l q v b s
    cases hfsm : s.fsm with
    | idle => exact ⟨_, hidle hfsm⟩
    | capturing =>
      obtain ⟨t, ht, -⟩ := hcapturing hfsm hs.buf_wf fun _ => (hs.live hfsm).room
      exact ⟨t, ht⟩
    | finalizing => exact ⟨_, hfinalizing hfsm⟩
  | edge l q v w =>
    cases hfsm : s.fsm with
    | idle => exact ⟨_, edgeInIdleResult l q v w s hfsm⟩
    | capturing =>
      have hroom := (hs.live hfsm).room
      by_cases hceiling : w.toNat ≤ configured.timeoutCeiling
      · cases hpend : s.pendValid with
        | false => exact ⟨_, evenEdgeIsRemembered l q v w s hfsm hpend hceiling⟩
        | true =>
          obtain ⟨buf, hbuf, -⟩ := oddEdgeIsAppended l q v w s hfsm hpend hceiling hroom hs.buf_wf
          exact ⟨_, hbuf⟩
      · obtain ⟨t, ht, -⟩ := ceilingEdgeEndsSession l q v w s hfsm (not_le.1 hceiling) (fun _ => hroom) hs.buf_wf
        exact ⟨t, ht⟩
    | finalizing => exact ⟨_, edgeWhileFinalizingIsDropped l q v w s hfsm⟩
  | tick now => exact ⟨_, exec_tick now s⟩
  | reset => exact ⟨_, exec_reset s⟩
  | reservedR x => exact ⟨_, (reservedWordSetsErrorOnly x s).2⟩
  | reserved x => exact ⟨_, (reservedWordSetsErrorOnly x s).1⟩

/-- Settles O51: a command has room for the half-bit it may append, and FIN has a bucket to rank. -/
theorem stepAlwaysAnswers : Obligations.StepAlwaysAnswers := by
  intro s hs
  obtain hnext | ⟨word, rest, hagenda⟩ := s.engineNext_or_command
  · by_cases hfsm : s.fsm = .finalizing
    · obtain ⟨pulse, space, -, -, hstep⟩ := step_of_fin hs hfsm hnext
      exact ⟨_, hstep⟩
    · exact ⟨_, engineIdlesOutsideFinalizing s hfsm hnext⟩
  · have hs' : State.Inv { s with agenda := rest } := hs.of_same ⟨rfl, rfl, rfl, rfl, rfl⟩ rfl
    rw [State.Runs, step_of_command hagenda]
    exact exists_exec hs' _

/-- Settles O53: a command reports on its way to IDLE, FIN reports the normalized session, and nothing else reports. -/
theorem oneReportThenIdle : Obligations.OneReportThenIdle := by
  intro s t h
  cases step_stepped h with
  | command hagenda ran => exact ran.report
  | fin hfsm hfin =>
    obtain ⟨u, pulse, space, hu, rfl⟩ := finalize_reports hfin
    rw [normalize_of_fits (fits_of_normalize hu), Except.ok.injEq] at hu
    subst hu
    exact .inr ⟨_, rfl, finReport_shaped, rfl⟩
  | skipped => exact .inl rfl

end Sys2Proof.Machine
end

section
/-! The obligation on the block's parameters (00_scope R6, 70_reset_and_hazards R242). -/

namespace Sys2Proof.Machine

/-- Settles O1: each OPEN value is a remainder that stays within its constraints (log entry 4). -/
theorem configuredParametersMeetConstraints : Obligations.ConfiguredParametersMeetConstraints where
  floor_from_footer := Nat.le_add_right 1 _
  floor_below_ceiling := by
    have hceiling : 0 < timeoutCeiling - 1 := Nat.sub_pos_of_lt (Nat.lt_add_right _ (by decide))
    have := Nat.mod_lt Config.freeFloor hceiling
    show 1 + Config.freeFloor % (timeoutCeiling - 1) < timeoutCeiling
    omega
  ceiling_fits := timeoutCeiling_le
  timeout_fits := Nat.mod_lt _ (by decide)
  guard_fits := by decide
  cap_fits := by decide

end Sys2Proof.Machine
end

section
/-! The obligation on the MARK items of the decoded stream (44_modulation_classifier R168, R170): the marks are the
other part of what the stream shows. -/

namespace Sys2Proof.Machine

/-- The marks among what is shown, in order. -/
def shownMarks (shown : List (Bool ⊕ StreamItem)) : List StreamItem := shown.filterMap Sum.getRight?

theorem shownMarks_flatMap {α : Type} (items : List α) (f : α → List (Bool ⊕ StreamItem)) :
    shownMarks (items.flatMap f) = items.flatMap fun x => shownMarks (f x) :=
  List.filterMap_flatMap

@[simp] theorem shownMarks_map_inl (bits : List Bool) : shownMarks (bits.map .inl) = [] := by
  rw [shownMarks, List.filterMap_map]
  exact List.filterMap_eq_nil_iff.2 fun _ _ => rfl

theorem shownMarks_trace (item : StreamItem) : shownMarks item.trace = if item.isMark then [item] else [] := by
  cases item with
  | byte acc nbits => exact shownMarks_map_inl _
  | mark offset p s pTime sTime => rfl

theorem shownMarks_halfbitTrace (live : List Bucket) (c : Classification) (brk : Byte → Bool) (x : Byte × Nat) :
    shownMarks (halfbitTrace live c brk x) = if brk x.1 then [markOf live x.2 x.1] else [] := by
  rw [halfbitTrace]
  split_ifs
  · rfl
  · exact shownMarks_map_inl _

theorem flatMap_ite_singleton {α β : Type} (keep : α → Bool) (f : α → β) (l : List α) :
    (l.flatMap fun x => if keep x then [f x] else []) = (l.filter keep).map f := by
  induction l with
  | nil => rfl
  | cons x l ih => cases h : keep x <;> simp [h, ih]

/-- Settles O34: the stream shows what its half-bits must show, so it shows the same marks. -/
theorem marksAreBreaks : Obligations.MarksAreBreaks := by
  intro live c longPulse longSpace bytes hc
  have htrace := decodeStream_trace (live := live) (longPulse := longPulse) (longSpace := longSpace) bytes hc
  have hmarks := congrArg shownMarks htrace
  simp only [shownMarks_flatMap, shownMarks_trace, shownMarks_halfbitTrace] at hmarks
  have hkept := flatMap_ite_singleton StreamItem.isMark id (decodeStream live c longPulse longSpace bytes)
  have hbreaks := flatMap_ite_singleton (fun x : Byte × Nat => isBreak longPulse longSpace x.1)
    (fun x => markOf live x.2 x.1) bytes.zipIdx
  rw [List.map_id] at hkept
  exact ⟨hkept.symm.trans (hmarks.trans hbreaks), htrace⟩

end Sys2Proof.Machine
end

section
/-! The obligation on the BYTE items of the decoded stream (44_modulation_classifier R167-R169). -/

namespace Sys2Proof.Machine

/-! ### Items of a stream -/

/-- A BYTE that no more bits fit into; a MARK is one whole item. -/
def StreamItem.Whole : StreamItem → Prop
  | .byte _ nbits => nbits = 8
  | .mark _ _ _ _ _ => True

/-- A BYTE of 1 to 8 bits, with zeros above them (R167). -/
def StreamItem.Bounded : StreamItem → Prop
  | .byte value nbits => 1 ≤ nbits.toNat ∧ nbits.toNat ≤ 8 ∧ value.toNat < 2 ^ nbits.toNat
  | .mark _ _ _ _ _ => True

/-- A stream of bounded items in which only a MARK follows a partial BYTE (R167, R168). -/
structure TidyStream (items : List StreamItem) : Prop where
  bounded : ∀ x ∈ items, x.Bounded
  chain : items.IsChain fun a b => a.Whole ∨ b.isMark = true

/-- A stream that any item may follow. -/
structure OpenStream (items : List StreamItem) : Prop extends TidyStream items where
  whole : ∀ a ∈ items.getLast?, a.Whole

section
variable {items : List StreamItem} {x : StreamItem}

theorem OpenStream.concat (h : OpenStream items) (hx : x.Bounded) : TidyStream (items ++ [x]) where
  bounded := by simpa [or_imp, forall_and] using ⟨h.bounded, hx⟩
  chain := List.isChain_append.2 ⟨h.chain, List.isChain_singleton _, fun a ha _ _ => .inl (h.whole a ha)⟩

theorem OpenStream.concat_whole (h : OpenStream items) (hx : x.Bounded) (hwhole : x.Whole) :
    OpenStream (items ++ [x]) :=
  ⟨h.concat hx, by simpa using hwhole⟩

theorem TidyStream.concat_mark (h : TidyStream items) (hx : x.isMark = true) : OpenStream (items ++ [x]) := by
  cases x with
  | byte => cases hx
  | mark offset p s pTime sTime =>
    refine ⟨⟨?_, ?_⟩, ?_⟩
    · simpa [or_imp, forall_and] using ⟨h.bounded, trivial⟩
    · exact List.isChain_append.2 ⟨h.chain, List.isChain_singleton _, by simp [StreamItem.isMark]⟩
    · simp [StreamItem.Whole]

end

/-- The packer's accumulator holds no more than its bits, and any item may follow what it has emitted. -/
structure Packer.Tidy (k : Packer) : Prop where
  room : k.nb < 8
  small : k.acc.toNat < 2 ^ k.nb
  stream : OpenStream k.stream

section
variable {k : Packer}

/-- Shifting a bit into a byte that has room for it. -/
theorem shiftIn_toNat {acc : Byte} (b : Bool) (h : acc.toNat < 2 ^ 7) :
    ((acc <<< 1) ||| BitVec.setWidth 8 (BitVec.ofBool b)).toNat = acc.toNat * 2 ^ 1 + b.toNat := by
  rw [BitVec.toNat_or, BitVec.toNat_shiftLeft, BitVec.toNat_setWidth_of_le (by decide), BitVec.toNat_ofBool,
    Nat.shiftLeft_eq, Nat.mod_eq_of_lt (by omega), mul_two_pow_or_of_lt _ b.toNat_lt]

theorem Packer.Tidy.push (h : k.Tidy) (b : Bool) : (k.push b).Tidy := by
  obtain ⟨hroom, hsmall, hstream⟩ := h
  have hseven : k.acc.toNat < 2 ^ 7 := hsmall.trans_le (Nat.pow_le_pow_right (by decide) (by omega))
  have hshift := shiftIn_toNat b hseven
  have hb := b.toNat_lt
  rw [Packer.push]
  split_ifs with hfull
  · exact ⟨by simp, by simp, hstream.concat_whole ⟨by decide, by decide, BitVec.isLt _⟩ rfl⟩
  · refine ⟨?_, ?_, hstream⟩
    · show k.nb + 1 < 8
      omega
    · show BitVec.toNat _ < 2 ^ (k.nb + 1)
      rw [hshift, Nat.pow_succ]
      omega

theorem Packer.Tidy.pushIf (h : k.Tidy) (decoded b : Bool) : (k.pushIf decoded b).Tidy := by
  cases decoded with
  | false => exact h
  | true => exact h.push b

/-- A flush empties the accumulator, into a BYTE where it held any bit. -/
theorem Packer.Tidy.flush (h : k.Tidy) :
    TidyStream k.flush.stream ∧ k.flush.nb < 8 ∧ k.flush.acc.toNat < 2 ^ k.flush.nb := by
  obtain ⟨hroom, hsmall, hstream⟩ := h
  rw [Packer.flush]
  split_ifs with hheld
  · have hnbits : (BitVec.ofNat 4 k.nb).toNat = k.nb := by
      rw [BitVec.toNat_ofNat]
      omega
    refine ⟨hstream.concat ?_, by simp, by simp⟩
    rw [StreamItem.Bounded, hnbits]
    exact ⟨hheld, hroom.le, hsmall⟩
  · exact ⟨hstream.toTidyStream, hroom, hsmall⟩

variable {live : List Bucket} {c : Classification} {brk : Byte → Bool}

theorem Packer.Tidy.decodeHalfbit (h : k.Tidy) (np : Byte) (i : Nat) : (decodeHalfbit live c brk k np i).Tidy := by
  rw [Machine.decodeHalfbit]
  split_ifs
  · obtain ⟨hstream, hroom, hsmall⟩ := h.flush
    exact ⟨hroom, hsmall, hstream.concat_mark rfl⟩
  · exact (h.pushIf _ _).pushIf _ _

theorem Packer.Tidy.decodeFrom (h : k.Tidy) (i : Nat) (bytes : List Byte) :
    TidyStream (decodeFrom live c brk i k bytes).stream := by
  induction bytes generalizing i k with
  | nil => exact h.flush.1
  | cons np rest ih => exact ih (h.decodeHalfbit np i) (i + 1)

end

theorem decodeStream_tidy (live : List Bucket) (c : Classification) (longPulse longSpace : Nibble) (bytes : List Byte) :
    TidyStream (decodeStream live c longPulse longSpace bytes) := by
  have hnil : OpenStream [] := ⟨⟨by simp, List.isChain_nil⟩, by simp⟩
  rw [decodeStream]
  split_ifs
  · exact hnil.toTidyStream
  · exact Packer.Tidy.decodeFrom ⟨by decide, by decide, hnil⟩ 0 bytes

theorem dataBits_length_le (live : List Bucket) (c : Classification) (brk : Byte → Bool) (np : Byte) :
    (dataBits live c brk np).length ≤ 2 := by
  rw [dataBits]
  split_ifs <;> simp

theorem length_flatMap_dataBits_le (live : List Bucket) (c : Classification) (brk : Byte → Bool) (bytes : List Byte) :
    (bytes.flatMap (dataBits live c brk)).length ≤ 2 * bytes.length := by
  induction bytes with
  | nil => simp
  | cons np rest ih =>
    have := dataBits_length_le live c brk np
    rw [List.flatMap_cons, List.length_append, List.length_cons]
    omega

/-- Settles O35: the packer never holds more than a byte and flushes before a MARK and at the end alone; and the bits
are those of the data half-bits, two at most for each. -/
theorem streamBytesAreBounded : Obligations.StreamBytesAreBounded := by
  intro live c longPulse longSpace bytes
  obtain ⟨hbounded, hchain⟩ := decodeStream_tidy live c longPulse longSpace bytes
  obtain ⟨hbits, hunknown⟩ := streamBitsAreDataBits live c longPulse longSpace bytes
  refine ⟨fun v n h => hbounded _ h, fun i v n v' n' hi hi' => ?_, ?_⟩
  · obtain ⟨hlt, hnext⟩ := List.getElem?_eq_some_iff.1 hi'
    obtain ⟨_, hhere⟩ := List.getElem?_eq_some_iff.1 hi
    have hjoin := List.isChain_iff_getElem.1 hchain i hlt
    rw [hhere, hnext] at hjoin
    exact hjoin.resolve_right (by simp [StreamItem.isMark])
  · by_cases hc : c.modulation = .unknown
    · simp [hunknown hc]
    · rw [hbits hc]
      exact length_flatMap_dataBits_le ..

end Sys2Proof.Machine
end
